-- ==== Sys2Proof/Word.lean ====
section
/-! DEFINITION. The words of the block: bit vectors for what the spec treats as bits (00_scope.md section 4.1, R6, R7). -/

namespace Sys2Proof

/-- A byte of the wire frame (R56). -/
abbrev Byte := BitVec 8

/-- A 16-bit pin vector: `SHADOW` (R10) or a reading (R57). Bit i is pin i, bit 0 the least significant. -/
abbrev Pins := BitVec 16

/-- A command word `CMD[13:0]` (R50). -/
abbrev CmdWord := BitVec 14

/-- A device address of the two-wire bus (R6, R15, R30). -/
abbrev BusAddr := BitVec 7

/-- A wire frame: byte 0, first on the bus, and byte 1 (R56). -/
abbrev Frame := Byte × Byte

end Sys2Proof
end

