-- ==== Sys2Proof/Syntax.lean ====
section
/-! DEFINITION. The two commands of the block (R50) and the decoder's one reason to refuse. -/

namespace Sys2Proof

/-- A command. The operands are the source's own types (D2, D4): a pin index and a count are natural numbers, and what fits
the command word is `Instr.wf`. -/
inductive Instr where
  /-- `WRITE state, firstPin, pinCount` (R84). -/
  | write (state : Bool) (firstPin pinCount : Nat)
  /-- `READ` (R90). -/
  | read
  deriving DecidableEq, Repr

/-- Why a number is refused as a command word. -/
inductive DecodeError where
  /-- It needs more than the 14 bits of `CMD14` (R50): raised by `decodeWord`, never by the machine, whose command
  channel has 14 wires. Safe. -/
  | wordTooWide
  deriving DecidableEq, Repr

end Sys2Proof
end

