-- ==== Sys2Proof/WellFormed.lean ====
section
/-! DEFINITION. The commands that the fields of `CMD14` can hold (R53, R54, R61). -/

namespace Sys2Proof

/-- `firstPin` is a PinIndex, 0 to 15 (R53). -/
def pinIndexFits (firstPin : Nat) : Bool := decide (firstPin ≤ 15)

/-- `pinCount` is 0 to 255 (R54). -/
def pinCountFits (pinCount : Nat) : Bool := decide (pinCount ≤ 255)

/-- The command has a command word (R61: an assembler refuses `f > 15` and `c > 255`). -/
def Instr.wf : Instr → Bool
  | .write _ firstPin pinCount => pinIndexFits firstPin && pinCountFits pinCount
  | .read => true

end Sys2Proof
end

