-- ==== Sys2Proof/Decode.lean ====
section
/-! DEFINITION. Command words to commands and back (30_encoding.md, R50 to R55, R61, R63). -/

namespace Sys2Proof

/-- `op = CMD[13]` (R51): 1 is WRITE. -/
def opField (w : CmdWord) : Bool := w.getLsbD 13

/-- `state = CMD[12]` (R52). -/
def stateField (w : CmdWord) : Bool := w.getLsbD 12

/-- `firstPin = zext(CMD[11:8])` (R53). -/
def firstPinField (w : CmdWord) : Nat := (w.extractLsb' 8 4).toNat

/-- `pinCount = zext(CMD[7:0])` (R54). -/
def pinCountField (w : CmdWord) : Nat := (w.extractLsb' 0 8).toNat

/-- The decoder (R50, R55, R63): total on the 2^14 command words; READ ignores `CMD[12:0]`. -/
def decode (w : CmdWord) : Instr :=
  if opField w then .write (stateField w) (firstPinField w) (pinCountField w) else .read

/-- The decoder on any number: a word of more than 14 bits is no command word (R50). -/
def decodeWord (n : Nat) : Except DecodeError Instr :=
  if n < 2 ^ 14 then .ok (decode (BitVec.ofNat 14 n)) else .error .wordTooWide

/-- The host's question about a row of the opcode table: a command word has one length, so the number of bits the row is
given does not matter (R50, R55). -/
def decodeTableWord (_nbits w : Nat) : Option Instr :=
  match decodeWord w with
  | .ok i => some i
  | .error _ => none

/-- The command word of a command (R61): `0x2000 | (s << 12) | (f << 8) | c` for WRITE, the canonical word 0 for READ. -/
def encode : Instr → CmdWord
  | .write state firstPin pinCount =>
    BitVec.ofNat 14 (0x2000 ||| (state.toNat <<< 12) ||| (firstPin <<< 8) ||| pinCount)
  | .read => 0

end Sys2Proof
end

