-- ==== Sys2Proof/Config.lean ====
section
/-! DEFINITION. What is fixed for the hardware (R6, R7) and the one parameter the spec leaves open (R8). -/

namespace Sys2Proof

/-- `FRAME_BYTES`: bytes of every bus transaction (R6, R33). -/
def Config.frameBytes : Nat := 2

/-- `N_PINS`: pins, and bits of `SHADOW` (R6). -/
def Config.nPins : Nat := 16

/-- `DEVADDR` of this block (R8, R15, D8), OPEN in the spec: an uninterpreted constant, so that nothing can be proved from
its value. State holds the address itself, so a statement over all states covers all 128 of them.
DESIGN CHOICE, safe: notes/assumptions/1.md. -/
opaque Config.devAddr : BusAddr

/-- The value of the remote chip's output register where no rule fixes it: its power-on value or the value of an earlier
session (R126, U12), and any value after a failed or abandoned Send (R36, R122, U2). A FREE VALUE for each length of the
ports' record; `Config.chipOpen 0` is the value before any message. That it depends on that length alone, and so is the same
for two chips, or two histories, whose open records are of equal length, is the model's choice: the spec ties no two of them.
DESIGN CHOICE, safe for one record, unsafe for a comparison of two: notes/assumptions/17.md. -/
opaque Config.chipOpen : Nat → Pins

end Sys2Proof
end

