-- ==== Sys2Proof/Machine/State.lean ====
section
/-! DEFINITION. The state of the block and the messages of its ports (10_state.md, 30_encoding.md sections 3 and 4). -/

namespace Sys2Proof.Machine

/-- The kind of a bus request (R59). -/
inductive BusKind where
  | send
  | recv
  deriving DecidableEq, Repr

/-- The sequencer (R14). -/
inductive Fsm where
  | idle
  | transacting (kind : BusKind)
  deriving DecidableEq, Repr

/-- A bus request (R59). A Recv carries no bytes: the spec gives them no meaning there. -/
inductive BusRequest where
  | send (addr : BusAddr) (len : Nat) (b0 b1 : Byte)
  | recv (addr : BusAddr) (len : Nat)
  deriving DecidableEq, Repr

/-- A bus response `(ok, r0, r1)` (R60); the bytes are there whatever `ok` says, and the block ignores them where they
have no meaning (R18). -/
structure BusResponse where
  ok : Bool
  r0 : Byte
  r1 : Byte
  deriving DecidableEq, Repr

/-- A response to the host (R57, R58), a sum: a reading is present only for a READ that succeeded. -/
inductive Response where
  /-- WRITE, status OK. -/
  | ok
  /-- READ, status OK, with `RD`. -/
  | reading (rd : Pins)
  /-- Either command, status FAIL: BusTransactionFailure (R100). -/
  | fail
  deriving DecidableEq, Repr

/-- A message that has passed a port of the block (R22). -/
inductive PortEvent where
  /-- The command channel: the word is accepted. -/
  | command (w : CmdWord)
  | busRequest (q : BusRequest)
  /-- The bus response channel: the response is taken for the request in flight. -/
  | busResponse (r : BusResponse)
  | response (r : Response)
  /-- The `reset` input. -/
  | reset
  deriving DecidableEq, Repr

/-- One move of a neighbour of the block (R4, R22, R25). DESIGN CHOICE, safe: notes/assumptions/2.md. -/
inductive Turn where
  /-- The host presents the oldest command word it holds. -/
  | host
  /-- The bus environment answers the request in flight. -/
  | bus (r : BusResponse)
  /-- The bus environment answers a request that a reset abandoned (R122). DEDUCED: notes/assumptions/6.md. -/
  | lateBus (r : BusResponse)
  /-- The host asserts `reset`. -/
  | reset
  deriving DecidableEq, Repr

/-- The block and what stands at its ports. -/
structure State where
  /-- `SHADOW` (R10). -/
  shadow : Pins
  /-- `FSM` (R14). -/
  fsm : Fsm
  /-- `DEVADDR` (R15). -/
  devAddr : BusAddr
  /-- The command words the host still holds, oldest first (R13, R19): the model's own field, notes/assumptions/3.md. -/
  commands : List CmdWord
  /-- The neighbours' moves to come, next first (R4): the model's own field, notes/assumptions/2.md. -/
  turns : List Turn
  /-- The messages that have passed the ports, oldest first (R22): the model's own field, notes/assumptions/4.md. -/
  ports : List PortEvent
  deriving DecidableEq, Repr

/-- Why the machine stops with a fault: it never does. No command word is illegal, and a failed bus transaction, the only
exception, is an ordinary response (R100, R102, R105). -/
inductive Fault where
  deriving DecidableEq, Repr

/-- Why a step is refused. -/
inductive Refusal where
  /-- The instruction has no meaning yet. Raised by no arm of `exec`: both commands have their meaning. Safe. -/
  | notModelled (mnemonic : String)
  deriving DecidableEq, Repr

/-- The block of device address `a` right after reset (R24, R120), with nothing presented and nothing on its ports. -/
def State.resetAt (a : BusAddr) : State where
  shadow := 0x0000
  fsm := .idle
  devAddr := a
  commands := []
  turns := []
  ports := []

/-- The machine right after reset (R24, R120). -/
def State.reset : State := State.resetAt Config.devAddr

end Sys2Proof.Machine
end

