-- ==== Sys2Proof/Machine/Flags.lean ====
section
/-! DEFINITION. The one-bit codes of messages (R58, R59). The block has no flags, no condition codes and no sticky status
(R16): the outcome of a command is a field of its response and nothing else. -/

namespace Sys2Proof.Machine

/-- The response status: 0 is OK, 1 is FAIL (R58). -/
def statusBit : Response → BitVec 1
  | .ok => 0
  | .reading _ => 0
  | .fail => 1

/-- `RD`, where the response has one (R57). -/
def readingOf : Response → Option Pins
  | .reading rd => some rd
  | .ok => none
  | .fail => none

/-- The kind of a request (R59). -/
def requestKind : BusRequest → BusKind
  | .send _ _ _ _ => .send
  | .recv _ _ => .recv

/-- The kind bit: 1 is Send, 0 is Recv (R59). -/
def kindBit : BusKind → BitVec 1
  | .send => 1
  | .recv => 0

/-- The device address of a request (R59). -/
def requestAddr : BusRequest → BusAddr
  | .send a _ _ _ => a
  | .recv a _ => a

/-- The length of a request (R33, R59). -/
def requestLen : BusRequest → Nat
  | .send _ n _ _ => n
  | .recv _ n => n

end Sys2Proof.Machine
end

