-- ==== Sys2Proof/Machine/Operands.lean ====
section
/-! DEFINITION. The pure functions of the block: ENC and DEC (40_expander_state.md), RUNMASK and APPLY (41_pin_writer.md
section 1), and the reading as a sequence of booleans (R57). All indices are natural numbers and never wrap (R81). -/

namespace Sys2Proof.Machine

/-- `ENC(R)`: low byte first (R70). -/
def enc (R : Pins) : Frame :=
  ((R &&& 0xFF).setWidth 8, ((R >>> 8) &&& 0xFF).setWidth 8)

/-- `DEC(b0, b1) = (zext_16(b1) << 8) | zext_16(b0)` (R71). -/
def dec (b0 b1 : Byte) : Pins :=
  (b1.setWidth 16 <<< 8) ||| b0.setWidth 16

/-- The bits below `j` of `RUNMASK(first, count)` (R80). -/
def runMaskBelow (first count : Nat) : Nat → Pins
  | 0 => 0
  | j + 1 =>
    if first ≤ j && j < first + count then runMaskBelow first count j ||| BitVec.ofNat 16 (1 <<< j)
    else runMaskBelow first count j

/-- `RUNMASK(first, count)`: `M[j] = 1` exactly when `first ≤ j < first + count` and `j ≤ 15` (R80). -/
def runMask (first count : Nat) : Pins :=
  runMaskBelow first count 16

/-- `APPLY(R, state, first, count)` (R82). -/
def applyRun (R : Pins) (state : Bool) (first count : Nat) : Pins :=
  if state then R ||| runMask first count else R &&& ~~~ runMask first count

/-- A reading as the source's sequence of 16 booleans, element i the level of pin i (R57). -/
def pinReading (V : Pins) : List Bool :=
  (List.range 16).map V.getLsbD

/-- The level of pin `p` as a frame carries it: bit `p mod 8` of byte `p div 8` (R75). -/
def framePin (f : Frame) (p : Nat) : Bool :=
  if p / 8 = 0 then f.1.getLsbD (p % 8) else f.2.getLsbD (p % 8)

end Sys2Proof.Machine
end

