-- ==== Sys2Proof/Machine/Ops.lean ====
section
/-! DEFINITION. The operations that the commands share: the ports (R22), the two bus primitives (R34, R35), the hold while
a transaction runs (R19), the responses, the one exception (R100, R105), and reset (R120, R122). -/

namespace Sys2Proof.Machine

/-- A message passes a port (R22). -/
def recordPort (e : PortEvent) (s : State) : State :=
  { s with ports := s.ports ++ [e] }

/-- `SHADOW <- v`, all 16 bits at once (R84). -/
def writeShadow (v : Pins) (s : State) : State :=
  { s with shadow := v }

/-- `FSM <- f` (R14). -/
def setFsm (f : Fsm) (s : State) : State :=
  { s with fsm := f }

/-- `x[i]`, the pin cell `SHADOW[i]` (R10). -/
def readPin (s : State) (i : Nat) : Bool :=
  s.shadow.getLsbD i

/-- The command channel is ready exactly in Idle (R22 (1), R19). -/
def commandReady (s : State) : Bool :=
  match s.fsm with
  | .idle => true
  | .transacting _ => false

/-- Issues a bus request; its transaction is then in flight (R17). -/
def issue (q : BusRequest) (s : State) : State :=
  setFsm (.transacting (requestKind q)) (recordPort (.busRequest q) s)

/-- `BusSend(DEVADDR, [b0, b1])` (R34, R33, R59). -/
def busSend (f : Frame) (s : State) : State :=
  issue (.send s.devAddr Config.frameBytes f.1 f.2) s

/-- `BusRecv(DEVADDR, 2)` (R35, R33, R59). -/
def busRecv (s : State) : State :=
  issue (.recv s.devAddr Config.frameBytes) s

/-- The ACCEPT step is enabled only in Idle (R17). While a transaction runs the command waits: neither executed, nor queued
inside the block, nor dropped (R19), so nothing changes. -/
def whenIdle (accept : State → State) (s : State) : Host.Outcome State Fault Refusal :=
  match s.fsm with
  | .idle => .next (accept s)
  | .transacting _ => .next s

/-- Ends the command: `FSM <- Idle` and one response to the host (R18). -/
def respond (r : Response) (s : State) : State :=
  setFsm .idle (recordPort (.response r) s)

/-- `raise BusTransactionFailure(kind)` (R100, R105): `FSM <- Idle` and the response FAIL, nothing else; the kind is not
reported. There is no return from it and nothing to restore (R107): the next command is accepted as after a success. -/
def raiseBusTransactionFailure (_kind : BusKind) (s : State) : State :=
  respond .fail s

/-- The `reset` input (R120 to R122): takes effect at once, causes no bus request and no response, and keeps `DEVADDR`.
What the neighbours hold is theirs: notes/assumptions/7.md. -/
def resetBlock (s : State) : State :=
  recordPort .reset { s with shadow := 0x0000, fsm := .idle }

/-- A bus response that belongs to no request in flight is discarded without effect (R25, R122). -/
def discardResponse (_r : BusResponse) (s : State) : State :=
  s

/-- The neighbours' next move, taken from the list (R4). -/
def nextTurn (s : State) : Option (Turn × State) :=
  match s.turns with
  | [] => none
  | t :: ts => some (t, { s with turns := ts })

/-- The command channel's handshake (R17, R19, R22 (1)): in Idle the oldest command word of the host passes it; while a
transaction runs, or where the host holds none, nothing does. -/
def takeCommand (s : State) : Option (CmdWord × State) :=
  match s.fsm, s.commands with
  | .idle, w :: ws => some (w, recordPort (.command w) { s with commands := ws })
  | _, _ => none

end Sys2Proof.Machine
end

