-- ==== Sys2Proof/Machine/PinReader.lean ====
section
/-! DEFINITION. PinReader: the READ command (42_pin_reader.md). -/

namespace Sys2Proof.Machine

/-- READ, accept part (R90): the shadow is neither read nor written. -/
def acceptRead (s : State) : State :=
  busRecv s

/-- The meaning of READ: its ACCEPT step, held while a transaction runs (R17, R19, R90). -/
def execRead (s : State) : Host.Outcome State Fault Refusal :=
  whenIdle acceptRead s

/-- READ, complete part (R91). -/
def completeRead (r : BusResponse) (s : State) : State :=
  if r.ok then respond (.reading (dec r.r0 r.r1)) s else raiseBusTransactionFailure .recv s

end Sys2Proof.Machine
end

