-- ==== Sys2Proof/Machine/PinWriter.lean ====
section
/-! DEFINITION. PinWriter: the WRITE command (41_pin_writer.md section 2). -/

namespace Sys2Proof.Machine

/-- WRITE, accept part (R84): update the shadow, encode the NEW value, transmit it. -/
def acceptWrite (state : Bool) (firstPin pinCount : Nat) (s : State) : State :=
  let s' := writeShadow (applyRun s.shadow state firstPin pinCount) s
  busSend (enc s'.shadow) s'

/-- The meaning of WRITE: its ACCEPT step, held while a transaction runs (R17, R19, R84). -/
def execWrite (state : Bool) (firstPin pinCount : Nat) (s : State) : Host.Outcome State Fault Refusal :=
  whenIdle (acceptWrite state firstPin pinCount) s

/-- WRITE, complete part (R85): the shadow stays as the accept part made it, whatever the answer. -/
def completeWrite (r : BusResponse) (s : State) : State :=
  if r.ok then respond .ok s else raiseBusTransactionFailure .send s

end Sys2Proof.Machine
end

