-- ==== Sys2Proof/Machine/Complete.lean ====
section
/-! DEFINITION. The COMPLETE step (R18): what the block does with a bus response. -/

namespace Sys2Proof.Machine

/-- COMPLETE for the request in flight, by its kind (R18, R85, R91). -/
def completeCommand (kind : BusKind) (r : BusResponse) (s : State) : State :=
  match kind with
  | .send => completeWrite r (recordPort (.busResponse r) s)
  | .recv => completeRead r (recordPort (.busResponse r) s)

/-- The bus environment delivers a response (R18); in Idle it has no request to belong to (R25). -/
def takeBusResponse (r : BusResponse) (s : State) : State :=
  match s.fsm with
  | .transacting kind => completeCommand kind r s
  | .idle => discardResponse r s

end Sys2Proof.Machine
end

