-- ==== Sys2Proof/Machine/Dispatch.lean ====
section
/-! DEFINITION. One arm per command (opcode_table.json). -/

namespace Sys2Proof.Machine

/-- The ACCEPT step of a command (R17). -/
def exec (i : Instr) (s : State) : Host.Outcome State Fault Refusal :=
  match i with
  | .write state firstPin pinCount => Sys2Proof.Machine.execWrite state firstPin pinCount s
  | .read => Sys2Proof.Machine.execRead s

end Sys2Proof.Machine
end

