-- ==== Sys2Proof/Machine/Turns.lean ====
section
/-! DEFINITION. What the block does at each move of a neighbour (R4, R17 to R19, R25, R122). -/

namespace Sys2Proof.Machine

/-- The host presents its oldest command (R17); it stays with the host where the channel is not ready (R19). -/
def hostTurn (s : State) : Host.Outcome State Fault Refusal :=
  match takeCommand s with
  | some (w, s') => exec (decode w) s'
  | none => .next s

/-- One move of a neighbour, at a state from which it has been taken. -/
def takeTurn (t : Turn) (s : State) : Host.Outcome State Fault Refusal :=
  match t with
  | .host => hostTurn s
  | .bus r => .next (takeBusResponse r s)
  | .lateBus r => .next (discardResponse r s)
  | .reset => .next (resetBlock s)

/-- Where no neighbour moves, the block has no step of its own (R103, R112) and everything stays as it is.
DESIGN CHOICE, safe: notes/assumptions/5.md. -/
def noTurn (s : State) : Host.Outcome State Fault Refusal :=
  .next s

/-- Lets the very next step accept the command word `w`: the block is Idle, the host holds `w` before its other commands,
and the next move is the host's. DESIGN CHOICE: notes/assumptions/9.md. -/
def presentWord (w : CmdWord) (s : State) : State :=
  { s with fsm := .idle, commands := w :: s.commands, turns := .host :: s.turns }

end Sys2Proof.Machine
end

