-- ==== Sys2Proof/Machine/Step.lean ====
section
/-! DEFINITION. One step: the neighbours' next move and what the block does with it (R4, R17 to R19, R122). -/

namespace Sys2Proof.Machine

/-- One step of the machine. -/
def step (s : State) : Host.Outcome State Fault Refusal :=
  match nextTurn s with
  | none => noTurn s
  | some (t, s') => takeTurn t s'

/-- `s` in which the very next step accepts the command word `w`. A number of more than 14 bits is no command word and is
not presented (R50). How a program comes to run from reset: notes/assumptions/9.md. -/
def State.withFetchWord (s : State) (_nbits w : Nat) : State :=
  if w < 2 ^ 14 then presentWord (BitVec.ofNat 14 w) s else s

end Sys2Proof.Machine
end

