-- ==== Sys2Proof/Machine/Assembler.lean ====
section
/-! DEFINITION. The assembler's lines: their text and their command words (R61), and the pseudo-instructions (R62).
The machine does not use it. -/

namespace Sys2Proof.Machine

/-- A line that holds a command or a pseudo-instruction (R61, R62). -/
inductive AsmLine where
  | write (state : Bool) (firstPin pinCount : Nat)
  | read
  | set (firstPin pinCount : Nat)
  | clr (firstPin pinCount : Nat)
  | setAll
  | clrAll
  | sync
  deriving DecidableEq, Repr

/-- Why the assembler refuses a line. -/
inductive AsmError where
  /-- An operand does not fit its field (R61). -/
  | operandOutOfRange
  /-- The text is no line of R61 or R62; a negative operand is one such text. -/
  | notALine
  deriving DecidableEq, Repr

/-- The command a line stands for (R61, R62). -/
def expandLine : AsmLine → Instr
  | .write state firstPin pinCount => .write state firstPin pinCount
  | .read => .read
  | .set firstPin pinCount => .write true firstPin pinCount
  | .clr firstPin pinCount => .write false firstPin pinCount
  | .setAll => .write true 0 16
  | .clrAll => .write false 0 16
  | .sync => .write false 0 0

/-- The command word of a line (R61). -/
def assembleLine (l : AsmLine) : Except AsmError CmdWord :=
  if (expandLine l).wf then .ok (encode (expandLine l)) else .error .operandOutOfRange

/-- A token of a line's text. -/
inductive AsmToken where
  | word (letters : List Char)
  | comma
  deriving DecidableEq, Repr

/-- The token that ends where its letters, read last first, end. -/
def endToken (letters : List Char) : List AsmToken :=
  match letters with
  | [] => []
  | _ :: _ => [.word letters.reverse]

/-- The tokens of a text, with the letters of the token begun: `;` starts a comment (R61), blanks and commas separate.
DESIGN CHOICE, safe: notes/assumptions/11.md. -/
def tokens (begun : List Char) : List Char → List AsmToken
  | [] => endToken begun
  | c :: cs =>
    if c = ';' then endToken begun
    else if c = ',' then endToken begun ++ .comma :: tokens [] cs
    else if c = ' ' || c = '\t' then endToken begun ++ tokens [] cs
    else tokens (c :: begun) cs

/-- The value of decimal digits, read on from `n`. -/
def digitsFrom (n : Nat) : List Char → Option Nat
  | [] => some n
  | c :: cs => if '0' ≤ c && c ≤ '9' then digitsFrom (10 * n + (c.toNat - '0'.toNat)) cs else none

/-- A decimal integer (R61). -/
def decimal : List Char → Option Nat
  | [] => none
  | c :: cs => digitsFrom 0 (c :: cs)

/-- The operand `s` of WRITE: 0 or 1, also written `false` or `true` (R61). -/
def stateOperand (letters : List Char) : Option Bool :=
  if letters = ['0'] || letters = ['f', 'a', 'l', 's', 'e'] then some false
  else if letters = ['1'] || letters = ['t', 'r', 'u', 'e'] then some true
  else none

/-- The line with mnemonic `m` and no operand. -/
def lineOfNone (m : List Char) : Option AsmLine :=
  if m = ['R', 'E', 'A', 'D'] then some .read
  else if m = ['S', 'E', 'T', 'A', 'L', 'L'] then some .setAll
  else if m = ['C', 'L', 'R', 'A', 'L', 'L'] then some .clrAll
  else if m = ['S', 'Y', 'N', 'C'] then some .sync
  else none

/-- The line with mnemonic `m` and two operands. -/
def lineOfTwo (m : List Char) (firstPin pinCount : Nat) : Option AsmLine :=
  if m = ['S', 'E', 'T'] then some (.set firstPin pinCount)
  else if m = ['C', 'L', 'R'] then some (.clr firstPin pinCount)
  else none

/-- The line with mnemonic `m` and three operands. -/
def lineOfThree (m : List Char) (state : Bool) (firstPin pinCount : Nat) : Option AsmLine :=
  if m = ['W', 'R', 'I', 'T', 'E'] then some (.write state firstPin pinCount) else none

/-- The line that the tokens of one line's text make (R61, R62). -/
def lineOfTokens : List AsmToken → Option AsmLine
  | [.word m] => lineOfNone m
  | [.word m, .word f, .comma, .word c] => do lineOfTwo m (← decimal f) (← decimal c)
  | [.word m, .word s, .comma, .word f, .comma, .word c] => do
    lineOfThree m (← stateOperand s) (← decimal f) (← decimal c)
  | _ => none

/-- Assembles one line of text; a line with nothing but a comment holds no command (R61). -/
def assembleText (text : List Char) : Except AsmError (Option CmdWord) :=
  match tokens [] text with
  | [] => .ok none
  | t :: ts =>
    match lineOfTokens (t :: ts) with
    | none => .error .notALine
    | some l =>
      match assembleLine l with
      | .ok w => .ok (some w)
      | .error e => .error e

end Sys2Proof.Machine
end

