-- ==== Sys2Proof/Machine/Platform.lean ====
section
/-! DEFINITION. Several instances of the block on one bus (R12, R45, R110): separate states that share nothing. -/

namespace Sys2Proof.Machine

/-- The instances, each with its own `SHADOW`, `FSM`, `DEVADDR` and ports (R12). -/
structure Platform where
  instances : List State
  deriving DecidableEq, Repr

/-- Instance `k` takes one step; where there is no such instance, nothing happens. Any order of calls is an interleaving of
the instances' steps (D24); the order in which the transport serves them is the bus environment's (R45):
notes/assumptions/10.md. -/
def stepInstance (k : Nat) (p : Platform) : Host.Outcome Platform Fault Refusal :=
  match p.instances[k]? with
  | none => .next p
  | some s =>
    match step s with
    | .next s' => .next { instances := p.instances.set k s' }
    | .fault r => .fault r
    | .refused r => .refused r

end Sys2Proof.Machine
end

