-- ==== Sys2Proof/Safety.lean ====
section
/-! DEFINITION. The terms in which the statements are made: runs, what a command and its answer do at the ports, the port
protocol of R22 and R40, and what the rules fix of the remote chip's output register. -/

namespace Sys2Proof.Machine

/-- `k` steps, stopping at the first fault or refusal. -/
def runSteps : Nat → State → Host.Outcome State Fault Refusal
  | 0, s => .next s
  | k + 1, s =>
    match step s with
    | .next s' => runSteps k s'
    | .fault r => .fault r
    | .refused r => .refused r

/-- The source's loop for `RUNMASK(first, count)`, after `i` turns (pseudocode of R80): an index above 15 is skipped and
the loop goes on. -/
def runMaskLoop (first : Nat) : Nat → Pins
  | 0 => 0
  | i + 1 =>
    if first + i ≤ 15 then runMaskLoop first i ||| BitVec.ofNat 16 (1 <<< (first + i))
    else runMaskLoop first i

/-- The shadow after a command's ACCEPT step (R17). -/
def shadowAfter (i : Instr) (v : Pins) : Pins :=
  match i with
  | .write state firstPin pinCount => applyRun v state firstPin pinCount
  | .read => v

/-- The bus request of a command at address `a`, given the shadow after its ACCEPT step (R17, R59). -/
def requestOf (i : Instr) (a : BusAddr) (v : Pins) : BusRequest :=
  match i with
  | .write _ _ _ => .send a 2 (enc v).1 (enc v).2
  | .read => .recv a 2

/-- The response to the host when a request of kind `k` is answered by `r` (R18). -/
def responseTo (k : BusKind) (r : BusResponse) : Response :=
  match k, r.ok with
  | .send, true => .ok
  | .recv, true => .reading (dec r.r0 r.r1)
  | _, false => .fail

/-- The kind of bus request a command issues (R17). -/
def kindOf : Instr → BusKind
  | .write _ _ _ => .send
  | .read => .recv

/-- Commands, each with the answer its bus request gets (95_test_vectors.md, Part C). -/
abbrev Script := List (CmdWord × BusResponse)

/-- The host presents the commands of a script in order, each after the response to the one before (R13). -/
def withScript (c : Script) (s : State) : State :=
  { s with
    commands := c.map Prod.fst ++ s.commands
    turns := c.flatMap (fun p => [Turn.host, Turn.bus p.2]) ++ s.turns }

/-- The messages of one command and its answer, in the order of R22, from the shadow `v` before it. -/
def exchange (a : BusAddr) (v : Pins) (p : CmdWord × BusResponse) : List PortEvent :=
  [ .command p.1
  , .busRequest (requestOf (decode p.1) a (shadowAfter (decode p.1) v))
  , .busResponse p.2
  , .response (responseTo (kindOf (decode p.1)) p.2) ]

/-- The shadow after a script (R40 (d)). -/
def shadowAfterScript (v : Pins) : Script → Pins
  | [] => v
  | p :: c => shadowAfterScript (shadowAfter (decode p.1) v) c

/-- The messages of a script (R40). -/
def exchanges (a : BusAddr) (v : Pins) : Script → List PortEvent
  | [] => []
  | p :: c => exchange a v p ++ exchanges a (shadowAfter (decode p.1) v) c

/-- The command word is a WRITE (R51). -/
def isWriteWord (w : CmdWord) : Bool :=
  match decode w with
  | .write _ _ _ => true
  | .read => false

/-- The frames sent, oldest first. -/
def framesSent (es : List PortEvent) : List Frame :=
  es.filterMap fun e =>
    match e with
    | .busRequest (.send _ _ b0 b1) => some (b0, b1)
    | _ => none

/-- Where a command stands, seen from the ports. -/
inductive Phase where
  | idle
  | accepted (i : Instr)
  | inFlight (k : BusKind)
  | answered (k : BusKind) (r : BusResponse)
  deriving DecidableEq, Repr

/-- What the ports' history says of the block. -/
structure PortView where
  shadow : Pins
  phase : Phase
  deriving DecidableEq, Repr

/-- The messages that may come next at the ports of the block of address `a` (R17, R18, R22, R40, R120): a command only
when none is in progress, then its one bus request, then its answer, then its response; a reset between the steps. -/
def portStep (a : BusAddr) (v : PortView) (e : PortEvent) : Option PortView :=
  match v.phase, e with
  | .idle, .command w => some ⟨shadowAfter (decode w) v.shadow, .accepted (decode w)⟩
  | .accepted i, .busRequest q =>
    if q = requestOf i a v.shadow then some ⟨v.shadow, .inFlight (kindOf i)⟩ else none
  | .inFlight k, .busResponse r => some ⟨v.shadow, .answered k r⟩
  | .answered k r, .response x => if x = responseTo k r then some ⟨v.shadow, .idle⟩ else none
  | .idle, .reset => some ⟨0x0000, .idle⟩
  | .inFlight _, .reset => some ⟨0x0000, .idle⟩
  | _, _ => none

/-- Reads a history from where the ports stand. -/
def portViewFrom (a : BusAddr) (v : PortView) : List PortEvent → Option PortView
  | [] => some v
  | e :: es =>
    match portStep a v e with
    | some v' => portViewFrom a v' es
    | none => none

/-- The phase that `FSM` says (R14). -/
def phaseOf : Fsm → Phase
  | .idle => .idle
  | .transacting k => .inFlight k

/-- The invariant of the machine: its ports' history keeps the protocol, and `SHADOW` and `FSM` are what it says. -/
def PortsAgree (s : State) : Prop :=
  portViewFrom s.devAddr ⟨0x0000, .idle⟩ s.ports = some ⟨s.shadow, phaseOf s.fsm⟩

/-- No bus response to the request in flight and no reset is among the moves to come. -/
def onlyHolds (ts : List Turn) : Bool :=
  ts.all fun t =>
    match t with
    | .host => true
    | .lateBus _ => true
    | .bus _ => false
    | .reset => false

/-- What the rules fix of the remote chip's output register, and the value of a Send in flight. -/
structure ChipView where
  known : Option Pins
  inFlight : Option Pins
  deriving DecidableEq, Repr

/-- A Send leaves the register open until it is answered; ok fixes it, a failure does not, nor does a Send that a reset
abandons (R36, R38, R122). After any reset the register is open until the next successful WRITE (R126, U12). No rule says
what a Recv does inside the chip (R38), so it is left open then too. -/
def chipStep (c : ChipView) (e : PortEvent) : ChipView :=
  match e with
  | .busRequest (.send _ _ b0 b1) => ⟨none, some (dec b0 b1)⟩
  | .busRequest (.recv _ _) => ⟨none, none⟩
  | .busResponse r => if r.ok then ⟨c.inFlight, none⟩ else ⟨none, none⟩
  | .reset => ⟨none, none⟩
  | .command _ => c
  | .response _ => c

/-- The value the rules fix for the chip's output register after a history, `none` where they fix none (R36, R125, R126). -/
def chipOutput (es : List PortEvent) : Option Pins :=
  (es.foldl chipStep ⟨none, none⟩).known

/-- The chip's output register after a history: the value the rules fix, or else a free value, before any message that of
power-on or of an earlier session (R126, U12). Two open histories of equal length, of one chip or of two, get the same free
value, which the spec (R36, R126) does not say: the model's choice. DESIGN CHOICE, safe for one record, unsafe for a
comparison of two: notes/assumptions/17.md. -/
def chipRegister (es : List PortEvent) : Pins :=
  match chipOutput es with
  | some v => v
  | none => Config.chipOpen es.length

end Sys2Proof.Machine
end

