-- ==== Sys2Proof/Certificates/Slice0/Obligations.lean ====
section
/-! DEFINITION. The statements for the provers, each from the numbered rules of spec/ that its docstring names. -/

open Sys2Proof Sys2Proof.Machine

/-! ### Command words -/

/-- Encode, then decode, is the identity on the commands that have a word (R50, R61; 95_test_vectors.md DV8). -/
def Obligations.DecodeAfterEncode : Prop :=
  ∀ i : Instr, i.wf = true → decode (encode i) = i

/-- Decode, then encode, is the identity on WRITE words and gives READ's canonical word otherwise; what is decoded always
has a word (R55; 95_test_vectors.md DV8). -/
def Obligations.EncodeAfterDecode : Prop :=
  ∀ w : CmdWord, (decode w).wf = true ∧ encode (decode w) = if w.getLsbD 13 then w else 0x0000

/-- `CMD[13]` selects the command, and the three operands are the fields `CMD[12]`, `CMD[11:8]`, `CMD[7:0]` verbatim, zero
extended (R51, R52, R54); all words with `CMD[13] = 0` are READ (R55). -/
def Obligations.DecodeTakesFieldsVerbatim : Prop :=
  (∀ (b : BitVec 1) (f : BitVec 4) (c : BitVec 8),
    decode (1#1 ++ b ++ f ++ c) = .write (b == 1#1) f.toNat c.toNat) ∧
  (∀ x : BitVec 13, decode (0#1 ++ x) = .read) ∧
  encode .read = 0x0000

/-- The words written out in 30_encoding.md (R50, worked encodings) and 95_test_vectors.md DV8 decode to their commands. -/
def Obligations.SpecWordsDecode : Prop :=
  decode 0b11010000000011 = .write true 4 3 ∧
  decode 0b11111000000101 = .write true 14 5 ∧
  decode 0b10000000010000 = .write false 0 16 ∧
  decode 0b10111100000010 = .write false 15 2 ∧
  decode 0b11111111111111 = .write true 15 255 ∧
  decode 0b10000000000000 = .write false 0 0 ∧
  decode 0b00000000000000 = .read ∧
  decode 0b01111111111111 = .read ∧
  decode 0b00101001011010 = .read

/-- Numbers of more than 14 bits are no command word, and every other number decodes (R50, R55); the refusal is the model's
choice: log 15. -/
def Obligations.CommandWordsHaveFourteenBits : Prop :=
  ∀ n w : Nat, decodeTableWord n w = if w < 2 ^ 14 then some (decode (BitVec.ofNat 14 w)) else none

/-! ### The pure functions -/

/-- `RUNMASK`: bit j is 1 exactly when `first ≤ j < first + count`, for j up to 15; and it is what the source's loop makes,
which skips the indices above 15 and goes on (R80). -/
def Obligations.RunMaskMembership : Prop :=
  (∀ first count j : Nat, j ≤ 15 →
    (runMask first count).getLsbD j = decide (first ≤ j ∧ j < first + count)) ∧
  (∀ first count : Nat, runMask first count = runMaskLoop first count) ∧
  runMask 14 5 = 0xC000

/-- The closed form of `RUNMASK` and its three consequences (R83). -/
def Obligations.RunMaskClosedForm : Prop :=
  ∀ first count : Nat,
    (runMask first count =
      if 15 < first then 0x0000
      else BitVec.ofNat 16 (((1 <<< min count (16 - first)) - 1) <<< first)) ∧
    (first ≤ 15 →
      runMask first count = runMask first (min count (16 - first)) ∧
      (16 - first ≤ count → runMask first count = runMask first (16 - first)) ∧
      (List.range 16).countP (runMask first count).getLsbD = min count (16 - first) ∧
      ∀ j ≤ 15, (runMask first count).getLsbD j = true ↔
        (first ≤ j ∧ j < first + min count (16 - first)))

/-- A first pin above 15, which no command word can hold, selects no pin (R80, R89). -/
def Obligations.RunAboveLastPinIsInert : Prop :=
  ∀ (first count : Nat) (R : Pins) (b : Bool), 15 < first →
    runMask first count = 0x0000 ∧ applyRun R b first count = R

/-- `APPLY`: OR with the mask or AND with its complement; bit by bit the run takes `state`, the rest is kept (R82). -/
def Obligations.ApplyRunBitwise : Prop :=
  (∀ (R : Pins) (first count : Nat),
    applyRun R true first count = R ||| runMask first count ∧
    applyRun R false first count = R &&& ~~~ runMask first count) ∧
  (∀ (R : Pins) (b : Bool) (first count j : Nat), j ≤ 15 →
    (applyRun R b first count).getLsbD j =
      if (runMask first count).getLsbD j then b else R.getLsbD j) ∧
  applyRun 0x0000 true 4 3 = 0x0070

/-- The further laws of `APPLY` (R88 (a) to (e)). -/
def Obligations.ApplyRunLaws : Prop :=
  (∀ R : Pins, applyRun R false 0 16 = 0x0000 ∧ applyRun R true 0 16 = 0xFFFF) ∧
  (∀ (R : Pins) (b : Bool) (f c j : Nat), (runMask f c).getLsbD j = true → (applyRun R b f c).getLsbD j = b) ∧
  (∀ (R : Pins) (b : Bool) (f c j : Nat),
    (runMask f c).getLsbD j = false → (applyRun R b f c).getLsbD j = R.getLsbD j) ∧
  (∀ (R : Pins) (f c : Nat), applyRun (applyRun R true f c) false f c = applyRun R false f c) ∧
  (∃ (R : Pins) (f c : Nat), applyRun (applyRun R true f c) false f c ≠ R) ∧
  (∀ (R : Pins) (b b' : Bool) (f c f' c' : Nat), runMask f c &&& runMask f' c' = 0x0000 →
    applyRun (applyRun R b f c) b' f' c' = applyRun (applyRun R b' f' c') b f c) ∧
  (∀ (R : Pins) (b : Bool) (f c f' c' : Nat), runMask f c &&& runMask f' c' ≠ 0x0000 →
    applyRun (applyRun R b f c) (!b) f' c' ≠ applyRun (applyRun R (!b) f' c') b f c) ∧
  (∀ (R : Pins) (b b' : Bool) (f c f' c' j : Nat), (runMask f' c').getLsbD j = true →
    (applyRun (applyRun R b f c) b' f' c').getLsbD j = b') ∧
  (∀ (b : Bool) (f c : Nat) (s : State), s.fsm = .idle →
    ∃ t, exec (.write b f c) s = .next t ∧ t.shadow = applyRun s.shadow b f c)

/-- `ENC` and `DEC` are mutual inverses, and `ENC` is injective (R72, R73). -/
def Obligations.EncDecMutualInverses : Prop :=
  (∀ R : Pins, dec (enc R).1 (enc R).2 = R) ∧
  (∀ b0 b1 : Byte, enc (dec b0 b1) = (b0, b1)) ∧
  (∀ R R' : Pins, enc R = enc R' → R = R')

/-- One bit-to-pin mapping both ways: pin p is bit `p mod 8` of byte `p div 8` (R56, R75). -/
def Obligations.FrameCarriesPins : Prop :=
  (∀ (V : Pins) (p : Nat), p ≤ 15 → framePin (enc V) p = V.getLsbD p) ∧
  (∀ (f : Frame) (p : Nat), p ≤ 15 → (dec f.1 f.2).getLsbD p = framePin f p) ∧
  (∀ (V : Pins) (i : Nat), i ≤ 7 →
    (enc V).1.getLsbD i = V.getLsbD i ∧ (enc V).2.getLsbD i = V.getLsbD (i + 8)) ∧
  (∀ (b0 b1 : Byte) (i : Nat), i ≤ 7 →
    (dec b0 b1).getLsbD i = b0.getLsbD i ∧ (dec b0 b1).getLsbD (i + 8) = b1.getLsbD i)

/-- The status bit is 0 for OK and 1 for FAIL (R58), and a reading is present only for a READ with status OK, 16 levels in
pin order (R57). -/
def Obligations.ResponseCarriesStatusAndReading : Prop :=
  (∀ x : Response, statusBit x = if x = .fail then 1 else 0) ∧
  (∀ (k : BusKind) (r : BusResponse),
    statusBit (responseTo k r) = (if r.ok then 0 else 1) ∧
    readingOf (responseTo k r) = if k = .recv ∧ r.ok = true then some (dec r.r0 r.r1) else none) ∧
  (∀ V : Pins, (pinReading V).length = 16 ∧ ∀ i ≤ 15, (pinReading V)[i]? = some (V.getLsbD i))

/-! ### The ACCEPT step -/

/-- WRITE in Idle: the shadow becomes `APPLY` of it, the whole NEW value is sent, and the block is Transacting(Send);
everything else is as before (R84). The step is enabled only in Idle (R17, R19);
that the meaning, called elsewhere, answers the same state is the model's choice: log 16. -/
def Obligations.WriteAccepts : Prop :=
  ∀ (b : Bool) (f c : Nat) (s : State),
    (s.fsm = .idle →
      exec (.write b f c) s = .next
        { s with
          shadow := applyRun s.shadow b f c
          fsm := .transacting .send
          ports := s.ports ++
            [.busRequest (.send s.devAddr 2 (enc (applyRun s.shadow b f c)).1 (enc (applyRun s.shadow b f c)).2)] }) ∧
    (s.fsm ≠ .idle → exec (.write b f c) s = .next s)

/-- READ in Idle: a Recv is issued, and the block is Transacting(Recv); everything else, `SHADOW` too, is as before
(R90). The step is enabled only in Idle (R17, R19); that the meaning, called elsewhere, answers the same state is the model's
choice: log 16. -/
def Obligations.ReadAccepts : Prop :=
  ∀ s : State,
    (s.fsm = .idle →
      exec .read s = .next
        { s with fsm := .transacting .recv, ports := s.ports ++ [.busRequest (.recv s.devAddr 2)] }) ∧
    (s.fsm ≠ .idle → exec .read s = .next s)

/-- A WRITE of no pins changes no bit and still sends the frame (R86). -/
def Obligations.ZeroCountWriteStillSends : Prop :=
  ∀ (b : Bool) (f : Nat) (s : State), s.fsm = .idle →
    exec (.write b f 0) s = .next
      { s with
        fsm := .transacting .send
        ports := s.ports ++ [.busRequest (.send s.devAddr 2 (enc s.shadow).1 (enc s.shadow).2)] }

/-- The frame of both commands' ACCEPT step: `DEVADDR`, the host's commands and the neighbours' moves are unchanged; in Idle
the one message added is the command's request, to `DEVADDR`, two bytes, for a WRITE the frame of the new shadow; READ changes
no pin, WRITE none outside its run (R11, R17, R84, R88 (b), R90). That the meaning, called in Transacting, leaves the record
and `SHADOW` as they are is the model's choice: log 16. -/
def Obligations.AcceptFrame : Prop :=
  ∀ (i : Instr) (s t : State), exec i s = .next t →
    t.devAddr = s.devAddr ∧ t.commands = s.commands ∧ t.turns = s.turns ∧
    (s.fsm = .idle →
      t.ports = s.ports ++ [.busRequest (requestOf i s.devAddr (shadowAfter i s.shadow))] ∧
      t.fsm = .transacting (kindOf i)) ∧
    (s.fsm ≠ .idle → t.ports = s.ports ∧ t.shadow = s.shadow ∧ t.fsm = s.fsm) ∧
    (i = .read → t.shadow = s.shadow) ∧
    (∀ (b : Bool) (f c j : Nat), i = .write b f c → (runMask f c).getLsbD j = false →
      t.shadow.getLsbD j = s.shadow.getLsbD j)

/-- While a transaction runs no command is accepted and it stays with the host; the COMPLETE step lifts the hold, and the
same command is then accepted (R19). That the meaning of a command, called in Transacting, answers the same state is the
model's choice: log 16. -/
def Obligations.CommandWaitsWhileTransacting : Prop :=
  ∀ (s : State) (k : BusKind), s.fsm = .transacting k →
    commandReady s = false ∧
    (∀ i, exec i s = .next s) ∧
    (∀ ts, s.turns = .host :: ts → step s = .next { s with turns := ts }) ∧
    (∀ w ws r ts, s.commands = w :: ws → s.turns = .host :: .bus r :: .host :: ts →
      runSteps 3 s = exec (decode w)
        { s with
          fsm := .idle, commands := ws, turns := ts
          ports := s.ports ++ [.busResponse r, .response (responseTo k r), .command w] })

/-- The step that accepts a command runs the decoded command, at the state from which the word and the move have been taken
and in which the command channel's message is recorded (R13, R17, R22). -/
def Obligations.StepRunsPresentedCommand : Prop :=
  ∀ (s : State) (w : CmdWord) (ws : List CmdWord) (ts : List Turn),
    s.fsm = .idle → s.commands = w :: ws → s.turns = .host :: ts →
      step s = exec (decode w) { s with commands := ws, turns := ts, ports := s.ports ++ [.command w] }

/-- All words with `CMD[13] = 0` are one command: from Idle each issues the same Recv, and the steps differ in nothing but
the word on the command channel (R55, R95 (a)). -/
def Obligations.ReadWordsBehaveAlike : Prop :=
  ∀ (w : CmdWord) (s : State) (ws : List CmdWord) (ts : List Turn), w.getLsbD 13 = false → s.fsm = .idle →
    step { s with commands := w :: ws, turns := .host :: ts } = .next
      { s with
        fsm := .transacting .recv, commands := ws, turns := ts
        ports := s.ports ++ [.command w, .busRequest (.recv s.devAddr 2)] }

/-! ### The COMPLETE step, failure and reset -/

/-- The COMPLETE step for either kind and either answer; `SHADOW` and all else is as before (R18). -/
def Obligations.CompleteStepAnswersHost : Prop :=
  ∀ (s : State) (k : BusKind) (r : BusResponse) (ts : List Turn),
    s.fsm = .transacting k → s.turns = .bus r :: ts →
      step s = .next
        { s with
          fsm := .idle, turns := ts
          ports := s.ports ++
            [ .busResponse r
            , .response
                (if r.ok then (match k with | .send => .ok | .recv => .reading (dec r.r0 r.r1)) else .fail) ] }

/-- The bytes of a response to a Send, or of one that failed, are ignored: two such responses leave states that differ in
nothing but the message itself (R18, R60). -/
def Obligations.MeaninglessBytesAreIgnored : Prop :=
  ∀ (s : State) (k : BusKind) (ok : Bool) (r0 r1 r0' r1' : Byte) (ts : List Turn),
    s.fsm = .transacting k → (k = .send ∨ ok = false) →
      ∃ (t : State) (x : Response),
        step { s with turns := .bus ⟨ok, r0, r1⟩ :: ts } = .next
          { t with ports := s.ports ++ [.busResponse ⟨ok, r0, r1⟩, .response x] } ∧
        step { s with turns := .bus ⟨ok, r0', r1'⟩ :: ts } = .next
          { t with ports := s.ports ++ [.busResponse ⟨ok, r0', r1'⟩, .response x] }

/-- BusTransactionFailure does two things and nothing else: `FSM` becomes Idle and the response FAIL is delivered (R105);
the step whose answer is `ok = 0` adds the bus response itself. -/
def Obligations.FailureEntry : Prop :=
  (∀ (k : BusKind) (s : State),
    raiseBusTransactionFailure k s = { s with fsm := .idle, ports := s.ports ++ [.response .fail] }) ∧
  (∀ (s : State) (k : BusKind) (r : BusResponse) (ts : List Turn),
    s.fsm = .transacting k → s.turns = .bus r :: ts → r.ok = false →
      step s = .next (raiseBusTransactionFailure k { s with turns := ts, ports := s.ports ++ [.busResponse r] }))

/-- A response FAIL is delivered only by a COMPLETE step whose bus answer is `ok = 0` (R100, R102). -/
def Obligations.OnlyBusFailureIsReported : Prop :=
  ∀ (s t : State) (es : List PortEvent),
    step s = .next t → t.ports = s.ports ++ es → PortEvent.response .fail ∈ es →
      ∃ k r ts, s.fsm = .transacting k ∧ s.turns = .bus r :: ts ∧ r.ok = false

/-- No state and no command makes the block fault or refuse (R55, R102). That a step without a move answers the same state is
the model's choice: log 5. -/
def Obligations.StepAlwaysAnswersNext : Prop :=
  (∀ s : State, ∃ t, step s = .next t) ∧ (∀ (i : Instr) (s : State), ∃ t, exec i s = .next t)

/-- A bus response with no request in flight, and one to a request that a reset abandoned, are discarded without effect
(R25, R122). That the late one is told apart while another request is in flight is the model's reading: log 6; that neither
leaves a message in the ports' record is the model's choice: log 8. -/
def Obligations.UnclaimedResponseIsDiscarded : Prop :=
  (∀ (s : State) (r : BusResponse) (ts : List Turn), s.fsm = .idle → s.turns = .bus r :: ts →
    step s = .next { s with turns := ts }) ∧
  (∀ (s : State) (r : BusResponse) (ts : List Turn), s.turns = .lateBus r :: ts →
    step s = .next { s with turns := ts })

/-- Reset takes effect at once in every state, and causes no bus request and no response (R120, R121, R122). That the host's
commands and the neighbours' later moves stay is the model's choice: log 7. -/
def Obligations.ResetTakesEffectAtOnce : Prop :=
  ∀ (s : State) (ts : List Turn), s.turns = .reset :: ts →
    step s = .next { s with shadow := 0x0000, fsm := .idle, turns := ts, ports := s.ports ++ [.reset] }

/-- The state after reset (R24). That the parameter is `Config.devAddr`, and that the ports' record is empty, are the model's
form of it: logs 1 and 4. -/
def Obligations.ResetState : Prop :=
  State.reset.shadow = 0x0000 ∧ State.reset.fsm = .idle ∧ State.reset.devAddr = Config.devAddr ∧
  State.reset.ports = [] ∧ commandReady State.reset = true

/-! ### Whole commands -/

/-- A WRITE from Idle with its answer: the shadow takes its new value whatever the answer, the response says whether the Send
succeeded and nothing else, a clamped run being no exception (R85, R101). -/
def Obligations.WriteReportsItsSend : Prop :=
  ∀ (s : State) (w : CmdWord) (b : Bool) (f c : Nat) (r : BusResponse),
    s.fsm = .idle → decode w = .write b f c →
      runSteps 2 (withScript [(w, r)] s) = .next
        { s with
          shadow := applyRun s.shadow b f c
          ports := s.ports ++
            [ .command w
            , .busRequest (.send s.devAddr 2 (enc (applyRun s.shadow b f c)).1 (enc (applyRun s.shadow b f c)).2)
            , .busResponse r
            , .response (if r.ok then .ok else .fail) ] }

/-- A READ from Idle with its answer: a fresh Recv, whose bytes alone make the reading; `SHADOW` is unchanged (R91). -/
def Obligations.ReadDeliversItsBytes : Prop :=
  ∀ (s : State) (w : CmdWord) (r : BusResponse),
    s.fsm = .idle → decode w = .read →
      runSteps 2 (withScript [(w, r)] s) = .next
        { s with
          ports := s.ports ++
            [ .command w
            , .busRequest (.recv s.devAddr 2)
            , .busResponse r
            , .response (if r.ok then .reading (dec r.r0 r.r1) else .fail) ] }

/-- Nothing a READ does depends on `SHADOW`: from states that differ only there, the same messages pass, and the results
differ only there (R92, R94). -/
def Obligations.ReadIndependentOfShadow : Prop :=
  ∀ (s : State) (v : Pins) (w : CmdWord) (ws : List CmdWord) (r : BusResponse) (ts : List Turn),
    s.fsm = .idle → s.commands = w :: ws → decode w = .read → s.turns = .host :: .bus r :: ts →
      ∃ t, runSteps 2 s = .next t ∧ runSteps 2 { s with shadow := v } = .next { t with shadow := v }

/-- The same WRITE twice: `APPLY` is idempotent, the second leaves the shadow as the first made it and sends the same frame,
each with its own answer and status, whether or not the first failed (R87). -/
def Obligations.RepeatedWriteSendsSameFrame : Prop :=
  (∀ (R : Pins) (b : Bool) (f c : Nat), applyRun (applyRun R b f c) b f c = applyRun R b f c) ∧
  (∀ (s : State) (w : CmdWord) (b : Bool) (f c : Nat) (r r' : BusResponse) (v : Pins) (q : BusRequest),
    s.fsm = .idle → decode w = .write b f c → v = applyRun s.shadow b f c →
    q = .send s.devAddr 2 (enc v).1 (enc v).2 →
      runSteps 4 (withScript [(w, r), (w, r')] s) = .next
        { s with
          shadow := v
          ports := s.ports ++
            [ .command w, .busRequest q, .busResponse r, .response (if r.ok then .ok else .fail)
            , .command w, .busRequest q, .busResponse r', .response (if r'.ok then .ok else .fail) ] })

/-- Every list of commands, each with any answer, runs in order: each command's four messages in the order of R22, one
request in flight at a time, each frame the `ENC` of the shadow that the WRITEs up to it have made (R40). -/
def Obligations.ScriptRunsInOrder : Prop :=
  ∀ (c : Script) (s : State), s.fsm = .idle →
    runSteps (2 * c.length) (withScript c s) = .next
      { s with
        shadow := shadowAfterScript s.shadow c
        ports := s.ports ++ exchanges s.devAddr s.shadow c }

/-- The shadow and the frames sent are the same with all READs taken out of the list of commands (R93). -/
def Obligations.ReadsLeaveWritesAlone : Prop :=
  ∀ (c : Script) (s : State), s.fsm = .idle →
    ∃ t u,
      runSteps (2 * c.length) (withScript c s) = .next t ∧
      runSteps (2 * (c.filter (fun p => isWriteWord p.1)).length)
        (withScript (c.filter (fun p => isWriteWord p.1)) s) = .next u ∧
      t.shadow = u.shadow ∧ framesSent t.ports = framesSent u.ports

/-- Whatever commands and failures went before, a WRITE that succeeds leaves the chip's output register equal to `SHADOW`,
and a WRITE that fails leaves it open (R36, R124, R125). What the messages fix of the chip is the model's reading: log 12. -/
def Obligations.SuccessfulWriteResynchronises : Prop :=
  ∀ (c : Script) (s : State) (w : CmdWord) (b : Bool) (f n : Nat) (r : BusResponse),
    s.fsm = .idle → decode w = .write b f n →
      ∃ t, runSteps (2 * c.length + 2) (withScript (c ++ [(w, r)]) s) = .next t ∧
        t.fsm = .idle ∧
        t.shadow = applyRun (shadowAfterScript s.shadow c) b f n ∧
        chipOutput t.ports = if r.ok then some t.shadow else none

/-- Reset sends the chip nothing, and its output register is then whatever it was, a free value; the first WRITE computes from
0x0000 and not from it, and where it succeeds the register is `SHADOW` (R120, R121, R126, U12). The free value is the model's
form of what no document states: logs 12 and 17. -/
def Obligations.FirstWriteAfterResetStartsFromZero : Prop :=
  (chipOutput State.reset.ports = none ∧ chipRegister State.reset.ports = Config.chipOpen 0) ∧
  (∀ (s : State) (ts : List Turn), s.turns = .reset :: ts →
    ∃ t, step s = .next t ∧ t.shadow = 0x0000 ∧ framesSent t.ports = framesSent s.ports ∧
      chipOutput t.ports = none ∧ chipRegister t.ports = Config.chipOpen (s.ports.length + 1)) ∧
  (∀ (s : State) (w : CmdWord) (ws : List CmdWord) (b : Bool) (f c : Nat) (r : BusResponse) (ts : List Turn),
    s.turns = .reset :: .host :: .bus r :: ts → s.commands = w :: ws → decode w = .write b f c →
      ∃ t, runSteps 3 s = .next t ∧ t.shadow = applyRun 0x0000 b f c ∧
        framesSent t.ports = framesSent s.ports ++ [enc (applyRun 0x0000 b f c)] ∧
        chipOutput t.ports = if r.ok then some t.shadow else none) ∧
  (decode 0x3403 = .write true 4 3 ∧ enc (applyRun 0x0000 true 4 3) = (0x70, 0x00))

/-- Where the chip's output register is open, as after reset, it stays so through any list of READs and failed WRITEs: only a
successful WRITE fixes it (R126, U12). What the messages fix of the chip is the model's reading, log 12, and the free value is
its form of what stays open: log 17. -/
def Obligations.ChipStaysOpenUntilSuccessfulWrite : Prop :=
  ∀ (c : Script) (s : State), s.fsm = .idle → chipOutput s.ports = none →
    (∀ p ∈ c, isWriteWord p.1 = true → p.2.ok = false) →
      ∃ t, runSteps (2 * c.length) (withScript c s) = .next t ∧ chipOutput t.ports = none ∧
        chipRegister t.ports = Config.chipOpen t.ports.length

/-! ### The machine -/

/-- The ports' protocol holds at reset, for every device address. -/
def Obligations.PortsAgreeAtReset : Prop :=
  PortsAgree State.reset ∧ ∀ a : BusAddr, PortsAgree (State.resetAt a)

/-- Every step keeps it: at most one command in progress, each with exactly one request, one answer and one response in that
order, and `SHADOW` and `FSM` always what the messages since reset make them (R17, R18, R22, R40, R120). -/
def Obligations.StepKeepsPortsAgree : Prop :=
  ∀ s t : State, PortsAgree s → step s = .next t → PortsAgree t

/-- What one step adds to the ports: nothing; a command with its one request, two bytes to `DEVADDR`; an answer with its
response; or a reset (R17, R18, R33, R108). -/
def Obligations.StepAddsWholeExchanges : Prop :=
  ∀ s t : State, step s = .next t →
    ∃ es, t.ports = s.ports ++ es ∧
      (es = [] ∨ es = [.reset] ∨
        (∃ w q, es = [.command w, .busRequest q] ∧ requestAddr q = s.devAddr ∧ requestLen q = 2 ∧
          requestKind q = kindOf (decode w)) ∨
        (∃ k r, s.fsm = .transacting k ∧ es = [.busResponse r, .response (responseTo k r)]))

/-- `SHADOW` has two writers, reset and the ACCEPT step of a WRITE (R11). -/
def Obligations.ShadowHasTwoWriters : Prop :=
  ∀ s t : State, step s = .next t →
    t.shadow = s.shadow ∨
    (∃ ts, s.turns = .reset :: ts ∧ t.shadow = 0x0000) ∨
    (∃ ts w ws b f c, s.turns = .host :: ts ∧ s.fsm = .idle ∧ s.commands = w :: ws ∧
      decode w = .write b f c ∧ t.shadow = applyRun s.shadow b f c)

/-- All transitions are Idle to Transacting, by a command, and back to Idle, by a bus answer or a reset (R14, R17, R18, R122). -/
def Obligations.FsmTransitions : Prop :=
  ∀ s t : State, step s = .next t →
    t.fsm = s.fsm ∨
    (s.fsm = .idle ∧ ∃ ts w ws, s.turns = .host :: ts ∧ s.commands = w :: ws ∧
      t.fsm = .transacting (kindOf (decode w))) ∨
    (t.fsm = .idle ∧ ∃ k ts, s.fsm = .transacting k ∧ ((∃ r, s.turns = .bus r :: ts) ∨ s.turns = .reset :: ts))

/-- `DEVADDR` never changes, and every request a run adds goes to it with length 2 (R15, R33). -/
def Obligations.DevAddrIsConstant : Prop :=
  ∀ (n : Nat) (s t : State), runSteps n s = .next t →
    t.devAddr = s.devAddr ∧
    ∀ q, PortEvent.busRequest q ∈ t.ports →
      PortEvent.busRequest q ∈ s.ports ∨ (requestAddr q = s.devAddr ∧ requestLen q = 2)

/-- No step depends on what happened before, a failure or a reading included, but through `SHADOW`, `FSM` and `DEVADDR`: any
other history of the ports gives the same step (R16, R20, R107). -/
def Obligations.HistoryDoesNotMatter : Prop :=
  ∀ (s t : State) (h : List PortEvent), step s = .next t →
    ∃ es, t.ports = s.ports ++ es ∧ step { s with ports := h } = .next { t with ports := h ++ es }

/-- A hang is not a failure: with no bus answer and no reset to come, a block in Transacting stays there for ever, accepts
nothing and answers nothing (R112, R130). That a step without a move answers the same state is the model's choice, log 5, and
so is that a late response, which the moves to come may hold, leaves the block as it is: log 6. -/
def Obligations.HungBusStaysStuck : Prop :=
  ∀ (n : Nat) (s : State) (k : BusKind), s.fsm = .transacting k → onlyHolds s.turns = true →
    runSteps n s = .next { s with turns := s.turns.drop n }

/-- With the premise that the bus environment answers, the command completes, whatever the host does meanwhile
(R18, R19, R130). That a late response, which may come before the answer, leaves the block as it is, is the model's reading:
log 6. -/
def Obligations.AnsweredCommandCompletes : Prop :=
  ∀ (s : State) (k : BusKind) (pre : List Turn) (r : BusResponse) (ts : List Turn),
    s.fsm = .transacting k → onlyHolds pre = true → s.turns = pre ++ .bus r :: ts →
      runSteps (pre.length + 1) s = .next
        { s with
          fsm := .idle, turns := ts
          ports := s.ports ++ [.busResponse r, .response (responseTo k r)] }

/-- Instances share nothing: an instance takes its own step, which leaves every other as it is, and the steps of two commute
(R12, R110). That they take whole steps in turn, and that nothing happens where there is no instance, is the model's choice:
log 10. -/
def Obligations.InstancesAreIndependent : Prop :=
  ∀ (p : Platform) (j k : Nat), j ≠ k →
    ∃ a b d, stepInstance j p = .next a ∧ stepInstance k p = .next b ∧
      stepInstance k a = .next d ∧ stepInstance j b = .next d ∧
      (∀ s, p.instances[j]? = some s → ∃ s', step s = .next s' ∧ a.instances[j]? = some s') ∧
      (p.instances[j]? = none → a = p) ∧
      ∀ m, m ≠ j → a.instances[m]? = p.instances[m]?

/-! ### The assembler -/

/-- A WRITE line assembles to `0x2000 | (s << 12) | (f << 8) | c` where its operands fit and is refused elsewhere; READ to
`0x0000`; and the text of a line, with a comment or a negative operand (R61). How a text is cut into tokens is the model's
choice: log 11. -/
def Obligations.AssemblerWords : Prop :=
  (∀ (b : Bool) (f c : Nat), assembleLine (.write b f c) =
    if f ≤ 15 ∧ c ≤ 255 then .ok (BitVec.ofNat 14 (0x2000 ||| (b.toNat <<< 12) ||| (f <<< 8) ||| c))
    else .error .operandOutOfRange) ∧
  assembleLine .read = .ok 0x0000 ∧
  assembleText ("WRITE true, 4, 3 ; set".toList) = .ok (some 0x3403) ∧
  assembleText ("READ".toList) = .ok (some 0x0000) ∧
  assembleText ("WRITE 1, 16, 3".toList) = .error .operandOutOfRange ∧
  assembleText ("WRITE 1, 4, 256".toList) = .error .operandOutOfRange ∧
  assembleText ("WRITE 1, -1, 3".toList) = .error .notALine

/-- The pseudo-instructions are the WRITE commands of R62. -/
def Obligations.PseudoInstructionsExpand : Prop :=
  (∀ f c : Nat,
    assembleLine (.set f c) = assembleLine (.write true f c) ∧
    assembleLine (.clr f c) = assembleLine (.write false f c)) ∧
  assembleLine .setAll = assembleLine (.write true 0 16) ∧
  assembleLine .clrAll = assembleLine (.write false 0 16) ∧
  assembleLine .sync = assembleLine (.write false 0 0) ∧
  assembleLine .setAll = .ok 0x3010 ∧ assembleLine .clrAll = .ok 0x2010 ∧ assembleLine .sync = .ok 0x2000
end

