-- ==== Sys2Proof/Laws/State.lean ====
section
/-! SUPPORT. The fields of an updated state, one lemma for each field of each update. -/

namespace Sys2Proof.Machine

section
variable (s : State) (e : PortEvent) (v : Pins) (f : Fsm)

@[simp] theorem recordPort_shadow : (recordPort e s).shadow = s.shadow := rfl
@[simp] theorem recordPort_fsm : (recordPort e s).fsm = s.fsm := rfl
@[simp] theorem recordPort_devAddr : (recordPort e s).devAddr = s.devAddr := rfl
@[simp] theorem recordPort_commands : (recordPort e s).commands = s.commands := rfl
@[simp] theorem recordPort_turns : (recordPort e s).turns = s.turns := rfl
@[simp] theorem recordPort_ports : (recordPort e s).ports = s.ports ++ [e] := rfl

@[simp] theorem writeShadow_shadow : (writeShadow v s).shadow = v := rfl
@[simp] theorem writeShadow_fsm : (writeShadow v s).fsm = s.fsm := rfl
@[simp] theorem writeShadow_devAddr : (writeShadow v s).devAddr = s.devAddr := rfl
@[simp] theorem writeShadow_commands : (writeShadow v s).commands = s.commands := rfl
@[simp] theorem writeShadow_turns : (writeShadow v s).turns = s.turns := rfl
@[simp] theorem writeShadow_ports : (writeShadow v s).ports = s.ports := rfl

@[simp] theorem setFsm_shadow : (setFsm f s).shadow = s.shadow := rfl
@[simp] theorem setFsm_fsm : (setFsm f s).fsm = f := rfl
@[simp] theorem setFsm_devAddr : (setFsm f s).devAddr = s.devAddr := rfl
@[simp] theorem setFsm_commands : (setFsm f s).commands = s.commands := rfl
@[simp] theorem setFsm_turns : (setFsm f s).turns = s.turns := rfl
@[simp] theorem setFsm_ports : (setFsm f s).ports = s.ports := rfl

@[simp] theorem resetBlock_shadow : (resetBlock s).shadow = 0x0000 := rfl
@[simp] theorem resetBlock_fsm : (resetBlock s).fsm = .idle := rfl
@[simp] theorem resetBlock_devAddr : (resetBlock s).devAddr = s.devAddr := rfl
@[simp] theorem resetBlock_commands : (resetBlock s).commands = s.commands := rfl
@[simp] theorem resetBlock_turns : (resetBlock s).turns = s.turns := rfl
@[simp] theorem resetBlock_ports : (resetBlock s).ports = s.ports ++ [.reset] := rfl

end

end Sys2Proof.Machine
end

