-- ==== Sys2Proof/Laws/Ops.lean ====
section
/-! SUPPORT. What each shared operation can do, said once. -/

namespace Sys2Proof.Machine

/-- All that issuing a request does. -/
theorem issue_eq (q : BusRequest) (s : State) :
    issue q s = { s with fsm := .transacting (requestKind q), ports := s.ports ++ [.busRequest q] } := rfl

theorem busSend_eq (f : Frame) (s : State) :
    busSend f s =
      { s with fsm := .transacting .send, ports := s.ports ++ [.busRequest (.send s.devAddr 2 f.1 f.2)] } := rfl

theorem busRecv_eq (s : State) :
    busRecv s = { s with fsm := .transacting .recv, ports := s.ports ++ [.busRequest (.recv s.devAddr 2)] } := rfl

/-- All that ending a command does, a failed one too. -/
theorem respond_eq (r : Response) (s : State) :
    respond r s = { s with fsm := .idle, ports := s.ports ++ [.response r] } := rfl

theorem raiseBusTransactionFailure_eq (k : BusKind) (s : State) :
    raiseBusTransactionFailure k s = respond .fail s := rfl

theorem whenIdle_of_idle (accept : State → State) {s : State} (h : s.fsm = .idle) :
    whenIdle accept s = .next (accept s) := by
  simp [whenIdle, h]

theorem whenIdle_of_transacting (accept : State → State) {s : State} {k : BusKind} (h : s.fsm = .transacting k) :
    whenIdle accept s = .next s := by
  simp [whenIdle, h]

/-- A held or accepted command: the only two outcomes. -/
theorem whenIdle_cases {accept : State → State} {s t : State} (h : whenIdle accept s = .next t) :
    (s.fsm = .idle ∧ t = accept s) ∨ (∃ k, s.fsm = .transacting k ∧ t = s) := by
  cases hf : s.fsm with
  | idle => rw [whenIdle_of_idle accept hf] at h; cases h; exact .inl ⟨rfl, rfl⟩
  | transacting k => rw [whenIdle_of_transacting accept hf] at h; cases h; exact .inr ⟨k, rfl, rfl⟩

/-- All that the command channel's handshake does. -/
theorem takeCommand_cases {s t : State} {w : CmdWord} (h : takeCommand s = some (w, t)) :
    s.fsm = .idle ∧ ∃ ws, s.commands = w :: ws ∧
      t = { s with commands := ws, ports := s.ports ++ [.command w] } := by
  unfold takeCommand at h
  split at h
  · next w' ws hf hc => cases h; exact ⟨hf, ws, hc, rfl⟩
  · cases h

theorem takeCommand_of_transacting {s : State} {k : BusKind} (h : s.fsm = .transacting k) :
    takeCommand s = none := by
  simp [takeCommand, h]

theorem takeCommand_of_idle {s : State} {w : CmdWord} {ws : List CmdWord} (hf : s.fsm = .idle)
    (hc : s.commands = w :: ws) :
    takeCommand s = some (w, { s with commands := ws, ports := s.ports ++ [.command w] }) := by
  simp [takeCommand, hf, hc, recordPort]

/-- All that COMPLETE does, for either kind and either answer (R18). -/
theorem completeCommand_eq (k : BusKind) (r : BusResponse) (s : State) :
    completeCommand k r s =
      { s with fsm := .idle, ports := s.ports ++ [.busResponse r, .response (responseTo k r)] } := by
  cases k <;> cases hr : r.ok <;>
    simp [completeCommand, completeWrite, completeRead, raiseBusTransactionFailure, respond_eq, recordPort, responseTo, hr]

/-- A step takes the next move, or nothing moves. -/
theorem step_cases {s t : State} (h : step s = .next t) :
    (s.turns = [] ∧ t = s) ∨ ∃ x xs, s.turns = x :: xs ∧ takeTurn x { s with turns := xs } = .next t := by
  cases hs : s.turns with
  | nil => simp only [step, nextTurn, hs, noTurn] at h; cases h; exact .inl ⟨rfl, rfl⟩
  | cons x xs => simp only [step, nextTurn, hs] at h; exact .inr ⟨x, xs, rfl, h⟩

theorem step_of_turn {s : State} {x : Turn} {xs : List Turn} (h : s.turns = x :: xs) :
    step s = takeTurn x { s with turns := xs } := by
  simp [step, nextTurn, h]

/-- A run of steps, cut in two. -/
theorem runSteps_add (m n : Nat) {s t : State} (h : runSteps m s = .next t) :
    runSteps (m + n) s = runSteps n t := by
  induction m generalizing s with
  | zero => cases h; simp
  | succ m ih =>
    rw [Nat.succ_add]
    simp only [runSteps] at h ⊢
    split at h
    · next s' hs => exact ih h
    · cases h
    · cases h

/-- `runSteps` is the host's run of the machine. -/
theorem runSteps_eq_run (k : Nat) (s : State) : runSteps k s = Sys2Proof.core.run k s := by
  induction k generalizing s with
  | zero => rfl
  | succ k ih =>
    cases h : step s with
    | next s' =>
      have hc : Sys2Proof.core.step s = .next s' := h
      simp only [runSteps, Host.Core.run, h, hc]
      exact ih s'
    | fault r => cases r
    | refused r =>
      have hc : Sys2Proof.core.step s = .refused r := h
      simp only [runSteps, Host.Core.run, h, hc]
      rfl

/-- What one more message does to what is fixed of the chip. -/
theorem chipView_append (c : ChipView) (es : List PortEvent) (e : PortEvent) :
    (es ++ [e]).foldl chipStep c = chipStep (es.foldl chipStep c) e := by
  simp

/-- The host's side of the channels says nothing of the chip. -/
@[simp] theorem chipOutput_command (es : List PortEvent) (w : CmdWord) :
    chipOutput (es ++ [.command w]) = chipOutput es := by
  simp [chipOutput, chipStep]

@[simp] theorem chipOutput_response (es : List PortEvent) (r : Response) :
    chipOutput (es ++ [.response r]) = chipOutput es := by
  simp [chipOutput, chipStep]

/-- A request leaves the register open until it is answered. -/
@[simp] theorem chipOutput_busRequest (es : List PortEvent) (q : BusRequest) :
    chipOutput (es ++ [.busRequest q]) = none := by
  cases q <;> simp [chipOutput, chipStep]

@[simp] theorem chipOutput_reset (es : List PortEvent) : chipOutput (es ++ [.reset]) = none := by
  simp [chipOutput, chipStep]

theorem chipRegister_of_fixed {es : List PortEvent} {v : Pins} (h : chipOutput es = some v) : chipRegister es = v := by
  simp [chipRegister, h]

theorem chipRegister_of_open {es : List PortEvent} (h : chipOutput es = none) :
    chipRegister es = Config.chipOpen es.length := by
  simp [chipRegister, h]

/-- The frames of a history in two parts. -/
@[simp] theorem framesSent_append (es fs : List PortEvent) :
    framesSent (es ++ fs) = framesSent es ++ framesSent fs := by
  simp [framesSent]

/-- All that a step of an instance does to the platform. -/
theorem stepInstance_of_next {p : Platform} {k : Nat} {s t : State} (hk : p.instances[k]? = some s)
    (h : step s = .next t) : stepInstance k p = .next ⟨p.instances.set k t⟩ := by
  simp [stepInstance, hk, h]

theorem stepInstance_of_absent {p : Platform} {k : Nat} (hk : p.instances[k]? = none) : stepInstance k p = .next p := by
  simp [stepInstance, hk]

/-- A history read in two parts. -/
theorem portViewFrom_append (a : BusAddr) (v : PortView) (es fs : List PortEvent) :
    portViewFrom a v (es ++ fs) = (portViewFrom a v es).bind (fun u => portViewFrom a u fs) := by
  induction es generalizing v with
  | nil => rfl
  | cons e es ih =>
    simp only [List.cons_append, portViewFrom]
    cases portStep a v e with
    | none => rfl
    | some u => exact ih u

end Sys2Proof.Machine
end

