-- ==== Sys2Proof/Laws/PerInstr.lean ====
section
/-! SUPPORT. Facts about every command as syntax, one lemma per constructor. -/

/-- The word of a command lies in its own row of the opcode table: masked with 0x2000 it is the row's match (R50). -/
def Sys2Proof.Laws.RowMatch.Statement (i : Sys2Proof.Instr) : Prop :=
  Sys2Proof.encode i &&& 0x2000 =
    match i with
    | .write _ _ _ => 0x2000
    | .read => 0x0000

theorem Sys2Proof.Laws.RowMatch.write (state : Bool) (firstPin pinCount : Nat) :
    Sys2Proof.Laws.RowMatch.Statement (.write state firstPin pinCount) := by
  simp only [Sys2Proof.Laws.RowMatch.Statement, Sys2Proof.encode]
  apply BitVec.eq_of_getLsbD_eq
  intro j hj
  have h : Nat.testBit 0x2000 j = decide (j = 13) := by
    have : ∀ j : Nat, j < 14 → Nat.testBit 0x2000 j = decide (j = 13) := by decide
    exact this j hj
  by_cases hj' : j = 13 <;> simp [BitVec.getLsbD_ofNat, h, hj']

theorem Sys2Proof.Laws.RowMatch.read : Sys2Proof.Laws.RowMatch.Statement .read := by
  simp [Sys2Proof.Laws.RowMatch.Statement, Sys2Proof.encode]
end

