-- ==== Sys2Proof/Tests/Slice0.lean ====
section
/-! SUPPORT. Small tests, with expected results from spec/95_test_vectors.md and the sections' own tables, and for every
statement with hypotheses a concrete case that meets them. -/

namespace Sys2Proof.Tests

open Sys2Proof Sys2Proof.Machine

/-! ### WellFormed: one ill-formed command for each check, and the last well-formed ones -/

theorem test_wf_refuses_pin_16 : (Instr.write true 16 3).wf = false := by decide
theorem test_wf_refuses_count_256 : (Instr.write true 4 256).wf = false := by decide
theorem test_wf_accepts_last_pin_and_count : (Instr.write true 15 255).wf = true := by decide
theorem test_wf_accepts_read : Instr.read.wf = true := by decide

/-! ### Decoding: words written out from R50, field by field -/

/-- op 1, state 1, firstPin 0100, pinCount 00000011 (30_encoding.md, worked encodings). -/
theorem test_decode_write_set : decode 0b1_1_0100_00000011 = .write true 4 3 := by decide
/-- op 1, state 0, firstPin 1111, pinCount 00000010 (DV8: 0x2F02). -/
theorem test_decode_write_clear : decode 0b1_0_1111_00000010 = .write false 15 2 := by decide
theorem test_decode_read_canonical : decode 0x0000 = .read := by decide
theorem test_decode_read_ignores_low_bits : decode 0x1FFF = .read := by decide
theorem test_encode_write : encode (.write true 14 5) = 0x3E05 := by decide
theorem test_decode_refuses_15_bits : decodeWord 0x4000 = .error .wordTooWide := by decide
theorem test_table_word_write : decodeTableWord 16 0x3E05 = some (.write true 14 5) := by decide
theorem test_table_word_read : decodeTableWord 16 0x0000 = some .read := by decide

/-! ### The pure functions: DV1, DV2, the table of R83 and DV4 -/

theorem test_enc_low_byte_first : enc 0x1234 = (0x34, 0x12) := by decide
theorem test_dec_straddles_bytes : dec 0x80 0x01 = 0x0180 := by decide
theorem test_runMask_clamps : runMask 14 5 = 0xC000 := by decide
theorem test_runMask_inner_run : runMask 5 10 = 0x7FE0 := by decide
theorem test_runMask_maximum_count : runMask 7 255 = 0xFF80 := by decide
theorem test_applyRun_keeps_outside : applyRun 0xA5A5 false 4 8 = 0xA005 := by decide

/-! ### Single steps -/

/-- A block of some address with a shadow, an `FSM` value, and what its neighbours hold. -/
def block (shadow : Pins) (fsm : Fsm) (commands : List CmdWord) (turns : List Turn) : State :=
  { State.resetAt 0x55 with shadow := shadow, fsm := fsm, commands := commands, turns := turns }

/-- The state after a step, where there is one. -/
def after (o : Host.Outcome State Fault Refusal) : Option State :=
  match o with
  | .next s => some s
  | .fault _ => none
  | .refused _ => none

/-- DV5: 0xFFFF, `WRITE 0, 7, 2`, word 0x2702, gives 0xFE7F and the frame (0x7F, 0xFE). -/
theorem test_write_step :
    (after (step (block 0xFFFF .idle [0x2702] [.host]))).map (fun t => (t.shadow, t.fsm, t.ports)) =
      some (0xFE7F, .transacting .send, [.command 0x2702, .busRequest (.send 0x55 2 0x7F 0xFE)]) := by decide

/-- DV6: a failed WRITE is reported and not rolled back. -/
theorem test_write_fails :
    (after (step (block 0x0070 (.transacting .send) [] [.bus ⟨false, 0, 0⟩]))).map (fun t => (t.shadow, t.fsm, t.ports)) =
      some (0x0070, .idle, [.busResponse ⟨false, 0, 0⟩, .response .fail]) := by decide

/-- DV7: the non-canonical READ 0x0A5A. -/
theorem test_read_step :
    (after (step (block 0x1234 .idle [0x0A5A] [.host]))).map (fun t => (t.shadow, t.fsm, t.ports)) =
      some (0x1234, .transacting .recv, [.command 0x0A5A, .busRequest (.recv 0x55 2)]) := by decide

/-- EX5: the bytes 0x01, 0x80 are pins 0 and 15. -/
theorem test_read_completes :
    (after (step (block 0xC070 (.transacting .recv) [] [.bus ⟨true, 0x01, 0x80⟩]))).map (fun t => (t.shadow, t.ports)) =
      some (0xC070, [.busResponse ⟨true, 0x01, 0x80⟩, .response (.reading 0x8001)]) := by decide

/-- P4: the command presented to a block in Transacting stays with the host. -/
theorem test_command_waits :
    (after (step (block 0xF100 (.transacting .send) [0x0000] [.host]))).map (fun t => (t.fsm, t.commands, t.ports)) =
      some (.transacting .send, [0x0000], []) := by decide

/-- DV9: reset in the middle of a transaction. -/
theorem test_reset_step :
    (after (step (block 0x0070 (.transacting .send) [] [.reset]))).map (fun t => (t.shadow, t.fsm, t.ports)) =
      some (0x0000, .idle, [.reset]) := by decide

/-- The host's question: a word placed at reset runs as the first command. -/
theorem test_fetch_runs_word_at_reset :
    (after (step (State.reset.withFetchWord 16 0x3403))).map (fun t => (t.shadow, t.fsm)) =
      some (0x0070, .transacting .send) := by decide

theorem test_fetch_runs_read_at_reset :
    (after (step (State.reset.withFetchWord 16 0x0000))).map (fun t => (t.shadow, t.fsm)) =
      some (0x0000, .transacting .recv) := by decide

/-- P5: a step of instance 0 leaves instance 1 alone. -/
theorem test_instances :
    stepInstance 0 ⟨[block 0 .idle [0x3008] [.host], block 0 .idle [0x3808] [.host]]⟩ =
      .next ⟨[{ block 0x00FF (.transacting .send) [] [] with
                  ports := [.command 0x3008, .busRequest (.send 0x55 2 0xFF 0x00)] },
              block 0 .idle [0x3808] [.host]]⟩ := by rfl

/-- U12: a WRITE that succeeded fixes the chip's register, and a later reset leaves it open again. -/
theorem test_chip_open_after_reset :
    chipOutput [.command 0x3403, .busRequest (.send 0x55 2 0x70 0x00), .busResponse ⟨true, 0, 0⟩, .response .ok] =
      some 0x0070 ∧
    chipOutput [.command 0x3403, .busRequest (.send 0x55 2 0x70 0x00), .busResponse ⟨true, 0, 0⟩, .response .ok, .reset] =
      none := by decide

/-- 30_encoding.md R61: text, comment and the refusal of a negative operand. -/
theorem test_assemble_text : assembleText "WRITE 1, 14, 5 ; clamp".toList = .ok (some 0x3E05) := by rfl
theorem test_assemble_negative : assembleText "WRITE 1, -1, 5".toList = .error .notALine := by rfl
theorem test_assemble_comment : assembleText "; nothing".toList = .ok none := by rfl

/-! ### A case that meets the hypotheses of each statement that has any -/

theorem witness_DecodeAfterEncode : (Instr.write true 15 255).wf = true := by decide
theorem witness_RunMaskMembership : runMask 15 2 = 0x8000 ∧ (0 : Nat) ≤ 15 ∧ (15 : Nat) ≤ 15 := by decide
theorem witness_RunMaskClosedForm_inside : (15 : Nat) ≤ 15 ∧ 16 - 15 ≤ 1 ∧ ¬ 15 < 15 := by decide
theorem witness_RunMaskClosedForm_above : 15 < 16 := by decide
theorem witness_RunAboveLastPinIsInert : 15 < 16 ∧ runMask 16 1 = 0x0000 := by decide
theorem witness_ApplyRunLaws_in_run : (runMask 15 1).getLsbD 15 = true := by decide
theorem witness_ApplyRunLaws_outside : (runMask 15 1).getLsbD 14 = false := by decide
theorem witness_ApplyRunLaws_disjoint : runMask 0 8 &&& runMask 8 8 = 0x0000 := by decide
theorem witness_ApplyRunLaws_overlap : runMask 0 8 &&& runMask 7 8 ≠ 0x0000 := by decide
theorem witness_EncInjective : enc 0x0100 = enc 0x0100 := rfl
theorem witness_FrameCarriesPins : (15 : Nat) ≤ 15 ∧ (7 : Nat) ≤ 7 ∧ framePin (enc 0x8000) 15 = true := by decide

/-- For ScriptRunsInOrder, ReadsLeaveWritesAlone and the last clause of ApplyRunLaws. -/
theorem witness_idle : (block 0xA5A5 .idle [] []).fsm = .idle := rfl
theorem witness_WriteAccepts :
    (block 0xA5A5 .idle [] []).fsm = .idle ∧ ∃ t, exec (.write true 15 255) (block 0xA5A5 .idle [] []) = .next t :=
  ⟨rfl, _, rfl⟩
theorem witness_ReadAccepts :
    (block 0xA5A5 .idle [] []).fsm = .idle ∧ ∃ t, exec .read (block 0xA5A5 .idle [] []) = .next t :=
  ⟨rfl, _, rfl⟩
theorem witness_accept_elsewhere : (block 0xA5A5 (.transacting .recv) [] []).fsm ≠ .idle := by decide
theorem witness_ZeroCountWriteStillSends :
    ∃ t, exec (.write false 15 0) (block 0x1234 .idle [] []) = .next t ∧ t.shadow = 0x1234 :=
  ⟨_, rfl, by decide⟩
theorem witness_AcceptFrame_write :
    ∃ t, exec (.write false 4 8) (block 0xA5A5 .idle [] []) = .next t ∧ (runMask 4 8).getLsbD 3 = false :=
  ⟨_, rfl, by decide⟩
theorem witness_AcceptFrame_read : ∃ t, exec .read (block 0xA5A5 .idle [] []) = .next t := ⟨_, rfl⟩
theorem witness_CommandWaitsWhileTransacting :
    (block 0 (.transacting .recv) [0x2000] [.host, .bus ⟨true, 1, 2⟩, .host]).fsm = .transacting .recv ∧
    (block 0 (.transacting .recv) [0x2000] [.host, .bus ⟨true, 1, 2⟩, .host]).commands = [0x2000] ∧
    (block 0 (.transacting .recv) [0x2000] [.host, .bus ⟨true, 1, 2⟩, .host]).turns =
      [.host, .bus ⟨true, 1, 2⟩, .host] := ⟨rfl, rfl, rfl⟩
theorem witness_StepRunsPresentedCommand :
    (block 0 .idle [0x3FFF] [.host]).fsm = .idle ∧ (block 0 .idle [0x3FFF] [.host]).commands = [0x3FFF] ∧
    (block 0 .idle [0x3FFF] [.host]).turns = [.host] := ⟨rfl, rfl, rfl⟩
theorem witness_ReadWordsBehaveAlike :
    BitVec.getLsbD (0x1FFF : CmdWord) 13 = false ∧ (block 0 .idle [] []).fsm = .idle := by decide
theorem witness_CompleteStepAnswersHost :
    (block 0 (.transacting .recv) [] [.bus ⟨true, 0xFF, 0x7F⟩]).fsm = .transacting .recv ∧
    (block 0 (.transacting .recv) [] [.bus ⟨true, 0xFF, 0x7F⟩]).turns = [.bus ⟨true, 0xFF, 0x7F⟩] := ⟨rfl, rfl⟩
theorem witness_MeaninglessBytesAreIgnored_send :
    (block 0 (.transacting .send) [] []).fsm = .transacting .send ∧ (BusKind.send = .send ∨ true = false) := by decide
theorem witness_MeaninglessBytesAreIgnored_failed :
    (block 0 (.transacting .recv) [] []).fsm = .transacting .recv ∧ (BusKind.recv = .send ∨ false = false) := by decide
theorem witness_FailureEntry :
    (block 0 (.transacting .send) [] [.bus ⟨false, 0, 0⟩]).fsm = .transacting .send ∧
    (block 0 (.transacting .send) [] [.bus ⟨false, 0, 0⟩]).turns = [.bus ⟨false, 0, 0⟩] := ⟨rfl, rfl⟩
theorem witness_OnlyBusFailureIsReported :
    ∃ t, step (block 0 (.transacting .send) [] [.bus ⟨false, 0, 0⟩]) = .next t ∧
      t.ports = [] ++ [.busResponse ⟨false, 0, 0⟩, .response .fail] ∧
      PortEvent.response .fail ∈ [PortEvent.busResponse ⟨false, 0, 0⟩, PortEvent.response .fail] :=
  ⟨_, rfl, rfl, by decide⟩
theorem witness_UnclaimedResponse_idle :
    (block 0 .idle [] [.bus ⟨true, 1, 2⟩]).fsm = .idle ∧
    (block 0 .idle [] [.bus ⟨true, 1, 2⟩]).turns = [.bus ⟨true, 1, 2⟩] := ⟨rfl, rfl⟩
theorem witness_UnclaimedResponse_late :
    (block 0 (.transacting .recv) [] [.lateBus ⟨true, 1, 2⟩]).turns = [.lateBus ⟨true, 1, 2⟩] := rfl
theorem witness_ResetTakesEffectAtOnce :
    (block 0x0070 (.transacting .send) [] [.reset]).turns = [.reset] := rfl
theorem witness_WriteReportsItsSend :
    (block 0 .idle [] []).fsm = .idle ∧ decode 0x3E05 = .write true 14 5 := by decide
theorem witness_ReadDeliversItsBytes :
    (block 0 .idle [] []).fsm = .idle ∧ decode 0x1FFF = .read := by decide
theorem witness_ReadIndependentOfShadow :
    (block 0x1234 .idle [0x0000] [.host, .bus ⟨true, 0x34, 0x12⟩]).fsm = .idle ∧
    (block 0x1234 .idle [0x0000] [.host, .bus ⟨true, 0x34, 0x12⟩]).commands = [0x0000] ∧
    decode 0x0000 = .read ∧
    (block 0x1234 .idle [0x0000] [.host, .bus ⟨true, 0x34, 0x12⟩]).turns = [.host, .bus ⟨true, 0x34, 0x12⟩] := by
  decide
theorem witness_RepeatedWriteSendsSameFrame :
    (block 0 .idle [] []).fsm = .idle ∧ decode 0x3403 = .write true 4 3 ∧
    (0x0070 : Pins) = applyRun 0 true 4 3 ∧
    BusRequest.send 0x55 2 0x70 0x00 = .send 0x55 2 (enc 0x0070).1 (enc 0x0070).2 := by decide
theorem witness_SuccessfulWriteResynchronises :
    (block 0 .idle [] []).fsm = .idle ∧ decode 0x2801 = .write false 8 1 := by decide
theorem witness_StepKeepsPortsAgree :
    PortsAgree (State.resetAt 0x55) ∧ ∃ t, step (State.resetAt 0x55) = .next t := ⟨rfl, _, rfl⟩
/-- The invariant is met by a state in which a transaction runs, and the step is an answer to it. -/
theorem witness_StepKeepsPortsAgree_transacting :
    PortsAgree { block 0x0070 (.transacting .send) [] [.bus ⟨false, 0, 0⟩] with
      ports := [.command 0x3403, .busRequest (.send 0x55 2 0x70 0x00)] } ∧
    ∃ t, step { block 0x0070 (.transacting .send) [] [.bus ⟨false, 0, 0⟩] with
      ports := [.command 0x3403, .busRequest (.send 0x55 2 0x70 0x00)] } = .next t := ⟨rfl, _, rfl⟩
/-- For StepAddsWholeExchanges, ShadowHasTwoWriters, FsmTransitions and HistoryDoesNotMatter: an accepted WRITE. -/
theorem witness_step_to_next :
    ∃ t, step (block 0xFFFF .idle [0x2702] [.host]) = .next t ∧ t.shadow ≠ 0xFFFF := ⟨_, rfl, by decide⟩
/-- For the same statements: a reset in the middle of a transaction. -/
theorem witness_step_to_next_reset :
    ∃ t, step (block 0x0070 (.transacting .send) [] [.reset]) = .next t ∧ t.shadow ≠ 0x0070 := ⟨_, rfl, by decide⟩
theorem witness_DevAddrIsConstant :
    ∃ t, runSteps 1 (block 0xFFFF .idle [0x2702] [.host]) = .next t ∧ t.ports ≠ [] := ⟨_, rfl, by decide⟩
theorem witness_HungBusStaysStuck :
    (block 0xF100 (.transacting .send) [0x0000] [.host, .lateBus ⟨true, 0, 0⟩]).fsm = .transacting .send ∧
    onlyHolds (block 0xF100 (.transacting .send) [0x0000] [.host, .lateBus ⟨true, 0, 0⟩]).turns = true := by decide
theorem witness_AnsweredCommandCompletes :
    (block 0 (.transacting .recv) [0] [.host, .bus ⟨true, 1, 2⟩, .host]).fsm = .transacting .recv ∧
    onlyHolds [.host] = true ∧
    (block 0 (.transacting .recv) [0] [.host, .bus ⟨true, 1, 2⟩, .host]).turns =
      [.host] ++ .bus ⟨true, 1, 2⟩ :: [.host] := by decide
theorem witness_InstancesAreIndependent : (0 : Nat) ≠ 1 := by decide
theorem witness_InstancesAreIndependent_present :
    (Platform.mk [block 0 .idle [] []]).instances[0]? = some (block 0 .idle [] []) := rfl
theorem witness_InstancesAreIndependent_absent : (Platform.mk [block 0 .idle [] []]).instances[1]? = none := rfl
theorem witness_FirstWriteAfterResetStartsFromZero :
    (block 0xFFFF (.transacting .send) [0x3403] [.reset, .host, .bus ⟨true, 0, 0⟩]).turns =
      [.reset, .host, .bus ⟨true, 0, 0⟩] ∧
    (block 0xFFFF (.transacting .send) [0x3403] [.reset, .host, .bus ⟨true, 0, 0⟩]).commands = [0x3403] ∧
    decode 0x3403 = .write true 4 3 := by decide
/-- A READ that succeeds and a WRITE that fails. -/
theorem witness_ChipStaysOpenUntilSuccessfulWrite :
    (block 0 .idle [] []).fsm = .idle ∧ chipOutput (block 0 .idle [] []).ports = none ∧
    ∀ p ∈ ([(0x0000, ⟨true, 1, 2⟩), (0x3010, ⟨false, 0, 0⟩)] : Script), isWriteWord p.1 = true → p.2.ok = false := by
  decide

end Sys2Proof.Tests
end

section
/-! PROOFS. The rules of the ACCEPT step, of the answers and of a step: one equation for each thing that can happen, and the
inversion that says that nothing else can. -/

namespace Sys2Proof.Machine

@[simp] theorem requestKind_requestOf (i : Instr) (a : BusAddr) (v : Pins) : requestKind (requestOf i a v) = kindOf i := by
  cases i <;> rfl

@[simp] theorem requestAddr_requestOf (i : Instr) (a : BusAddr) (v : Pins) : requestAddr (requestOf i a v) = a := by
  cases i <;> rfl

@[simp] theorem requestLen_requestOf (i : Instr) (a : BusAddr) (v : Pins) : requestLen (requestOf i a v) = 2 := by
  cases i <;> rfl

@[simp] theorem responseTo_of_failed (k : BusKind) {r : BusResponse} (h : r.ok = false) : responseTo k r = .fail := by
  cases k <;> simp [responseTo, h]

@[simp] theorem responseTo_send_of_ok {r : BusResponse} (h : r.ok = true) : responseTo .send r = .ok := by
  simp [responseTo, h]

@[simp] theorem responseTo_recv_of_ok {r : BusResponse} (h : r.ok = true) :
    responseTo .recv r = .reading (dec r.r0 r.r1) := by
  simp [responseTo, h]

/-- The bytes of an answer to a Send, or of a failed one, do not reach the host (R18, R60). -/
theorem responseTo_ignores_bytes {k : BusKind} {ok : Bool} (h : k = .send ∨ ok = false) (r0 r1 r0' r1' : Byte) :
    responseTo k ⟨ok, r0, r1⟩ = responseTo k ⟨ok, r0', r1'⟩ := by
  cases ok with
  | false => simp
  | true =>
    have hk : k = .send := by simpa using h
    simp [hk]

/-- `APPLY` keeps every pin outside its run (R82, R88 (b)). -/
theorem applyRun_getLsbD_outside (R : Pins) (b : Bool) {f c j : Nat} (h : (runMask f c).getLsbD j = false) :
    (applyRun R b f c).getLsbD j = R.getLsbD j := by
  cases b with
  | true => simp [applyRun, h]
  | false =>
    have hbound : R.getLsbD j = true → j < 16 := BitVec.lt_of_getLsbD
    simpa [applyRun, h] using hbound

/-- All that the ACCEPT step of a command does in Idle (R17, R84, R90). -/
theorem exec_of_idle (i : Instr) {s : State} (h : s.fsm = .idle) :
    exec i s = .next
      { s with
        shadow := shadowAfter i s.shadow
        fsm := .transacting (kindOf i)
        ports := s.ports ++ [.busRequest (requestOf i s.devAddr (shadowAfter i s.shadow))] } := by
  cases i with
  | write b f c => exact whenIdle_of_idle (acceptWrite b f c) h
  | read => exact whenIdle_of_idle acceptRead h

theorem exec_of_transacting (i : Instr) {s : State} {k : BusKind} (h : s.fsm = .transacting k) :
    exec i s = .next s := by
  cases i with
  | write b f c => exact whenIdle_of_transacting (acceptWrite b f c) h
  | read => exact whenIdle_of_transacting acceptRead h

theorem exists_transacting_of_ne_idle {f : Fsm} (h : f ≠ .idle) : ∃ k, f = .transacting k := by
  cases f with
  | idle => exact absurd rfl h
  | transacting k => exact ⟨k, rfl⟩

theorem exec_of_ne_idle (i : Instr) {s : State} (h : s.fsm ≠ .idle) : exec i s = .next s := by
  obtain ⟨k, hk⟩ := exists_transacting_of_ne_idle h
  exact exec_of_transacting i hk

/-- The move that a step takes, if any, passes no message: what is left of the moves is the second argument. -/
inductive QuietMove (s : State) : List Turn → Prop
  /-- No neighbour moves. -/
  | noMove (ht : s.turns = []) : QuietMove s []
  /-- The host holds no command. -/
  | noCommand {ts : List Turn} (ht : s.turns = .host :: ts) (hc : s.commands = []) : QuietMove s ts
  /-- The command waits (R19). -/
  | held {ts : List Turn} {k : BusKind} (ht : s.turns = .host :: ts) (hf : s.fsm = .transacting k) : QuietMove s ts
  /-- A response without a request (R25). -/
  | unclaimed {ts : List Turn} {r : BusResponse} (ht : s.turns = .bus r :: ts) (hf : s.fsm = .idle) : QuietMove s ts
  /-- A response to an abandoned request (R122). -/
  | late {ts : List Turn} {r : BusResponse} (ht : s.turns = .lateBus r :: ts) : QuietMove s ts

/-- All that a step can do, and when it does it (R17 to R19, R25, R120 to R122). -/
inductive StepEffect (s : State) : State → Prop
  | quiet {ts : List Turn} (h : QuietMove s ts) : StepEffect s { s with turns := ts }
  /-- ACCEPT of a command (R17). -/
  | accepted {w : CmdWord} {ws : List CmdWord} {ts : List Turn}
      (ht : s.turns = .host :: ts) (hc : s.commands = w :: ws) (hf : s.fsm = .idle) :
      StepEffect s
        { s with
          shadow := shadowAfter (decode w) s.shadow
          fsm := .transacting (kindOf (decode w))
          commands := ws
          turns := ts
          ports := s.ports ++
            [.command w, .busRequest (requestOf (decode w) s.devAddr (shadowAfter (decode w) s.shadow))] }
  /-- COMPLETE of the transaction that runs (R18). -/
  | answered {k : BusKind} {r : BusResponse} {ts : List Turn}
      (ht : s.turns = .bus r :: ts) (hf : s.fsm = .transacting k) :
      StepEffect s
        { s with
          fsm := .idle
          turns := ts
          ports := s.ports ++ [.busResponse r, .response (responseTo k r)] }
  | reset {ts : List Turn} (ht : s.turns = .reset :: ts) :
      StepEffect s { s with shadow := 0x0000, fsm := .idle, turns := ts, ports := s.ports ++ [.reset] }

theorem step_of_quietMove {s : State} {ts : List Turn} (h : QuietMove s ts) : step s = .next { s with turns := ts } := by
  cases h with
  | noMove ht =>
    obtain ⟨_, _, _, _, _, _⟩ := s
    cases ht
    rfl
  | noCommand ht hc => simp [step_of_turn ht, takeTurn, hostTurn, takeCommand, hc]
  | held ht hf => simp [step_of_turn ht, takeTurn, hostTurn, takeCommand, hf]
  | unclaimed ht hf => simp [step_of_turn ht, takeTurn, takeBusResponse, discardResponse, hf]
  | late ht => simp [step_of_turn ht, takeTurn, discardResponse]

/-- The step that accepts a word is `exec` of the command it decodes to (R13, R17, R22). -/
theorem step_eq_exec {s : State} {w : CmdWord} {ws : List CmdWord} {ts : List Turn}
    (ht : s.turns = .host :: ts) (hc : s.commands = w :: ws) (hf : s.fsm = .idle) :
    step s = exec (decode w) { s with commands := ws, turns := ts, ports := s.ports ++ [.command w] } := by
  rw [step_of_turn ht]
  simp only [takeTurn, hostTurn]
  rw [takeCommand_of_idle (s := { s with turns := ts }) hf hc]

/-- An answer to the request in flight ends the command (R18). -/
theorem step_of_answer {s : State} {k : BusKind} {r : BusResponse} {ts : List Turn}
    (ht : s.turns = .bus r :: ts) (hf : s.fsm = .transacting k) :
    step s = .next
      { s with
        fsm := .idle
        turns := ts
        ports := s.ports ++ [.busResponse r, .response (responseTo k r)] } := by
  simp [step_of_turn ht, takeTurn, takeBusResponse, hf, completeCommand_eq]

theorem step_of_stepEffect {s t : State} (h : StepEffect s t) : step s = .next t := by
  cases h with
  | quiet hq => exact step_of_quietMove hq
  | accepted ht hc hf =>
    rw [step_eq_exec ht hc hf, exec_of_idle]
    · simp
    · exact hf
  | answered ht hf => exact step_of_answer ht hf
  | reset ht => rw [step_of_turn ht]; rfl

/-- In every state one of the effects is due. -/
theorem exists_stepEffect (s : State) : ∃ t, StepEffect s t := by
  cases ht : s.turns with
  | nil => exact ⟨_, .quiet (.noMove ht)⟩
  | cons x ts =>
    cases x with
    | host =>
      cases hf : s.fsm with
      | transacting k => exact ⟨_, .quiet (.held ht hf)⟩
      | idle =>
        cases hc : s.commands with
        | nil => exact ⟨_, .quiet (.noCommand ht hc)⟩
        | cons w ws => exact ⟨_, .accepted ht hc hf⟩
    | bus r =>
      cases hf : s.fsm with
      | idle => exact ⟨_, .quiet (.unclaimed ht hf)⟩
      | transacting k => exact ⟨_, .answered ht hf⟩
    | lateBus r => exact ⟨_, .quiet (.late ht)⟩
    | reset => exact ⟨_, .reset ht⟩

/-- The inversion of a step: it is a function, so the effect that is due is the one that it had. -/
theorem step_next_iff {s t : State} : step s = .next t ↔ StepEffect s t := by
  refine ⟨fun h => ?_, step_of_stepEffect⟩
  obtain ⟨u, hu⟩ := exists_stepEffect s
  have huv : Host.Outcome.next u = .next t := (step_of_stepEffect hu).symm.trans h
  cases huv
  exact hu

/-! ### Runs -/

theorem runSteps_succ {s t : State} (n : Nat) (h : step s = .next t) : runSteps (n + 1) s = runSteps n t := by
  simp [runSteps, h]

theorem runSteps_succ_cases {n : Nat} {s t : State} (h : runSteps (n + 1) s = .next t) :
    ∃ u, step s = .next u ∧ runSteps n u = .next t := by
  obtain ⟨u, hu⟩ := exists_stepEffect s
  have hs := step_of_stepEffect hu
  exact ⟨u, hs, by rwa [runSteps_succ n hs] at h⟩

theorem runSteps_one (s : State) : runSteps 1 s = step s := by
  obtain ⟨u, hu⟩ := exists_stepEffect s
  rw [runSteps_succ 0 (step_of_stepEffect hu), step_of_stepEffect hu]
  rfl

/-- From Idle, a host move and an answer pass one whole exchange (R22, R40). -/
theorem runSteps_exchange {s : State} {p : CmdWord × BusResponse} {ws : List CmdWord} {ts : List Turn}
    (hf : s.fsm = .idle) (hc : s.commands = p.1 :: ws) (ht : s.turns = .host :: .bus p.2 :: ts) :
    runSteps 2 s = .next
      { s with
        shadow := shadowAfter (decode p.1) s.shadow
        commands := ws
        turns := ts
        ports := s.ports ++ exchange s.devAddr s.shadow p } := by
  rw [runSteps_succ 1 (step_of_stepEffect (.accepted ht hc hf)), runSteps_one, step_of_answer rfl rfl]
  simp [exchange, hf]

/-- While a transaction runs, a move that is neither an answer to it nor a reset is quiet. -/
theorem quietMove_of_onlyHolds {s : State} {k : BusKind} {x : Turn} {pre ts : List Turn}
    (hf : s.fsm = .transacting k) (ht : s.turns = x :: ts) (hx : onlyHolds (x :: pre) = true) : QuietMove s ts := by
  cases x with
  | host => exact .held ht hf
  | lateBus r => exact .late ht
  | bus r => simp [onlyHolds] at hx
  | reset => simp [onlyHolds] at hx

theorem onlyHolds_of_cons {x : Turn} {ts : List Turn} (h : onlyHolds (x :: ts) = true) : onlyHolds ts = true := by
  simp only [onlyHolds, List.all_cons, Bool.and_eq_true] at h
  exact h.2

/-- In Transacting, host moves and late responses pass by and the answer then ends the command (R18, R19). -/
theorem runSteps_of_answer_after_holds {s : State} {k : BusKind} {r : BusResponse} {pre ts : List Turn}
    (hf : s.fsm = .transacting k) (hpre : onlyHolds pre = true) (ht : s.turns = pre ++ .bus r :: ts) :
    runSteps (pre.length + 1) s = .next
      { s with
        fsm := .idle
        turns := ts
        ports := s.ports ++ [.busResponse r, .response (responseTo k r)] } := by
  induction pre generalizing s with
  | nil => exact (runSteps_one s).trans (step_of_answer ht hf)
  | cons x pre ih =>
    have hq : QuietMove s (pre ++ .bus r :: ts) := quietMove_of_onlyHolds hf ht hpre
    rw [List.length_cons, runSteps_succ _ (step_of_quietMove hq)]
    exact ih hf (onlyHolds_of_cons hpre) rfl

/-! ### What a step keeps -/

theorem step_devAddr {s t : State} (h : step s = .next t) : t.devAddr = s.devAddr := by
  cases step_next_iff.mp h <;> rfl

/-- Every request a step adds goes to `DEVADDR` with length 2 (R15, R33). -/
theorem step_request {s t : State} {q : BusRequest} (h : step s = .next t) (hq : .busRequest q ∈ t.ports) :
    .busRequest q ∈ s.ports ∨ (requestAddr q = s.devAddr ∧ requestLen q = 2) := by
  cases step_next_iff.mp h with
  | quiet _ => exact .inl hq
  | answered _ _ => exact .inl (by simpa using hq)
  | reset _ => exact .inl (by simpa using hq)
  | accepted _ _ _ =>
    refine Or.imp_right ?_ (List.mem_append.mp hq)
    intro hadded
    obtain rfl := show q = _ by simpa using hadded
    simp

theorem runSteps_devAddr {n : Nat} {s t : State} (h : runSteps n s = .next t) : t.devAddr = s.devAddr := by
  induction n generalizing s with
  | zero => cases h; rfl
  | succ n ih =>
    obtain ⟨u, hu, hrun⟩ := runSteps_succ_cases h
    exact (ih hrun).trans (step_devAddr hu)

theorem runSteps_request {n : Nat} {s t : State} {q : BusRequest} (h : runSteps n s = .next t)
    (hq : .busRequest q ∈ t.ports) :
    .busRequest q ∈ s.ports ∨ (requestAddr q = s.devAddr ∧ requestLen q = 2) := by
  induction n generalizing s with
  | zero => cases h; exact .inl hq
  | succ n ih =>
    obtain ⟨u, hu, hrun⟩ := runSteps_succ_cases h
    obtain hmem | hfit := ih hrun
    · exact step_request hu hmem
    · exact .inr (step_devAddr hu ▸ hfit)

theorem QuietMove.with_ports {s : State} {ts : List Turn} (h : QuietMove s ts) (es : List PortEvent) :
    QuietMove { s with ports := es } ts := by
  cases h with
  | noMove ht => exact .noMove ht
  | noCommand ht hc => exact .noCommand ht hc
  | held ht hf => exact .held ht hf
  | unclaimed ht hf => exact .unclaimed ht hf
  | late ht => exact .late ht

/-! ### The port protocol -/

/-- The invariant is kept where the messages added lead the protocol from the old `SHADOW` and `FSM` to the new. -/
theorem PortsAgree.append {s t : State} {es : List PortEvent} (hs : PortsAgree s) (ha : t.devAddr = s.devAddr)
    (hp : t.ports = s.ports ++ es)
    (hes : portViewFrom s.devAddr ⟨s.shadow, phaseOf s.fsm⟩ es = some ⟨t.shadow, phaseOf t.fsm⟩) : PortsAgree t := by
  unfold PortsAgree at hs ⊢
  rw [ha, hp, portViewFrom_append, hs]
  exact hes

/-! ### Platforms -/

/-- The state that a step answers; a step always answers one. -/
def nextState (s : State) : State :=
  match step s with
  | .next t => t
  | .fault _ => s
  | .refused _ => s

theorem step_eq_next_nextState (s : State) : step s = .next (nextState s) := by
  obtain ⟨t, ht⟩ := exists_stepEffect s
  simp [nextState, step_of_stepEffect ht]

/-- A step of member `k` replaces its state by the next and touches nothing else (R12, R110). -/
theorem stepInstance_eq (k : Nat) (p : Platform) : stepInstance k p = .next ⟨p.instances.modify k nextState⟩ := by
  cases hk : p.instances[k]? with
  | none => rw [stepInstance_of_absent hk, List.modify_eq_self (List.getElem?_eq_none_iff.mp hk)]
  | some s =>
    rw [stepInstance_of_next hk (step_eq_next_nextState s), List.modify_eq_set_getElem?, hk]
    rfl

end Sys2Proof.Machine
end

section
/-! PROOFS. The obligations about the state: the invariant, the steps and the runs. -/

namespace Sys2Proof.Machine

/-- Settles O37: each effect of a step is a path of the port protocol from the old `SHADOW` and `FSM` to the new. -/
theorem stepKeepsPortsAgree : Obligations.StepKeepsPortsAgree := by
  intro s t hs h
  cases step_next_iff.mp h with
  | quiet _ => exact hs.append (es := []) rfl (by simp) rfl
  | accepted _ _ hf => exact hs.append rfl rfl (by simp [portViewFrom, portStep, phaseOf, hf])
  | answered _ hf => exact hs.append rfl rfl (by simp [portViewFrom, portStep, phaseOf, hf])
  | reset _ => exact hs.append rfl rfl (by cases hf : s.fsm <;> simp [portViewFrom, portStep, phaseOf])

/-- Settles O17, by the two cases of `FSM` and the equations of `exec`. -/
theorem acceptFrame : Obligations.AcceptFrame := by
  intro i s t h
  cases hf : s.fsm with
  | transacting k =>
    rw [exec_of_transacting i hf] at h
    cases h
    simp [hf]
  | idle =>
    rw [exec_of_idle i hf] at h
    cases h
    refine ⟨rfl, rfl, rfl, fun _ => ⟨rfl, rfl⟩, fun hne => absurd rfl hne, ?_, ?_⟩
    · rintro rfl
      rfl
    · rintro b f c j rfl hj
      exact applyRun_getLsbD_outside s.shadow b hj

/-- Settles O18: the hold and the answer end the transaction, and the next host move is accepted. -/
theorem commandWaitsWhileTransacting : Obligations.CommandWaitsWhileTransacting := by
  intro s k hf
  refine ⟨by simp [commandReady, hf], fun i => exec_of_transacting i hf,
    fun ts ht => step_of_quietMove (.held ht hf), fun w ws r ts hc ht => ?_⟩
  have hdone := runSteps_of_answer_after_holds (pre := [.host]) hf rfl ht
  rw [runSteps_add 2 1 hdone, runSteps_one]
  refine Eq.trans (step_eq_exec rfl hc rfl) ?_
  simp

/-- Settles O33, by induction on the script: its first command is one exchange, after which the rest is presented. -/
theorem scriptRunsInOrder : Obligations.ScriptRunsInOrder := by
  intro c
  induction c with
  | nil => intro s _; simp [withScript, runSteps, shadowAfterScript, exchanges]
  | cons p c ih =>
    intro s hf
    have hlen : 2 * (p :: c).length = 2 + 2 * c.length := by simp; omega
    have hfirst := runSteps_exchange (s := withScript (p :: c) s) hf rfl rfl
    rw [hlen, runSteps_add 2 _ hfirst]
    refine (ih { s with
      shadow := shadowAfter (decode p.1) s.shadow
      ports := s.ports ++ exchange s.devAddr s.shadow p } hf).trans ?_
    simp [shadowAfterScript, exchanges]

/-- Settles O38: the four effects of a step are the four kinds of addition. -/
theorem stepAddsWholeExchanges : Obligations.StepAddsWholeExchanges := by
  intro s t h
  cases step_next_iff.mp h with
  | quiet _ => exact ⟨[], by simp, .inl rfl⟩
  | reset _ => exact ⟨_, rfl, .inr (.inl rfl)⟩
  | accepted _ _ _ => exact ⟨_, rfl, .inr (.inr (.inl ⟨_, _, rfl, by simp⟩))⟩
  | answered _ hf => exact ⟨_, rfl, .inr (.inr (.inr ⟨_, _, hf, rfl⟩))⟩

/-- Settles O39: of the four effects, only an accepted WRITE and a reset give `SHADOW` a value. -/
theorem shadowHasTwoWriters : Obligations.ShadowHasTwoWriters := by
  intro s t h
  cases step_next_iff.mp h with
  | quiet _ => exact .inl rfl
  | answered _ _ => exact .inl rfl
  | reset ht => exact .inr (.inl ⟨_, ht, rfl⟩)
  | @accepted w ws ts ht hc hf =>
    cases hi : decode w with
    | read => exact .inl rfl
    | write b f c => exact .inr (.inr ⟨ts, w, ws, b, f, c, ht, hf, hc, hi, rfl⟩)

/-- Settles O40, by the four effects of a step; a reset in Idle leaves `FSM` as it was. -/
theorem fsmTransitions : Obligations.FsmTransitions := by
  intro s t h
  cases step_next_iff.mp h with
  | quiet _ => exact .inl rfl
  | accepted ht hc hf => exact .inr (.inl ⟨hf, _, _, _, ht, hc, rfl⟩)
  | answered ht hf => exact .inr (.inr ⟨rfl, _, _, hf, .inl ⟨_, ht⟩⟩)
  | reset ht =>
    cases hf : s.fsm with
    | idle => exact .inl rfl
    | transacting k => exact .inr (.inr ⟨rfl, _, _, rfl, .inr ht⟩)

/-- Settles O41, by induction on the number of steps. -/
theorem devAddrIsConstant : Obligations.DevAddrIsConstant :=
  fun _ _ _ h => ⟨runSteps_devAddr h, fun _ => runSteps_request h⟩

/-- Settles O42: when each effect is due does not depend on the record, nor does what it adds to it. -/
theorem historyDoesNotMatter : Obligations.HistoryDoesNotMatter := by
  intro s t es h
  cases step_next_iff.mp h with
  | quiet hq => exact ⟨[], by simp, by simpa using step_of_quietMove (hq.with_ports es)⟩
  | accepted ht hc hf => exact ⟨_, rfl, step_of_stepEffect (.accepted ht hc hf)⟩
  | answered ht hf => exact ⟨_, rfl, step_of_answer ht hf⟩
  | reset ht => exact ⟨_, rfl, step_of_stepEffect (.reset ht)⟩

/-- Settles O44, by induction on the moves before the answer. -/
theorem answeredCommandCompletes : Obligations.AnsweredCommandCompletes :=
  fun _ _ _ _ _ => runSteps_of_answer_after_holds

/-- Settles O45: a member's step modifies its own place in the list, and modifications of two places commute. -/
theorem instancesAreIndependent : Obligations.InstancesAreIndependent := by
  intro p j k hjk
  refine ⟨_, _, _, stepInstance_eq j p, stepInstance_eq k p, stepInstance_eq k _, ?_, ?_, ?_, ?_⟩
  · rw [stepInstance_eq, List.modify_modify_ne _ _ _ hjk]
  · intro s hs
    exact ⟨nextState s, step_eq_next_nextState s, by simp [hs]⟩
  · intro hj
    rw [List.modify_eq_self (List.getElem?_eq_none_iff.mp hj)]
  · intro m hm
    exact List.getElem?_modify_ne _ _ hm.symm

/-- Settles O14. -/
theorem writeAccepts : Obligations.WriteAccepts :=
  fun b f c _ => ⟨exec_of_idle (.write b f c), exec_of_ne_idle (.write b f c)⟩

/-- Settles O15. -/
theorem readAccepts : Obligations.ReadAccepts :=
  fun _ => ⟨exec_of_idle .read, exec_of_ne_idle .read⟩

/-- Settles O19. -/
theorem stepRunsPresentedCommand : Obligations.StepRunsPresentedCommand :=
  fun _ _ _ _ hf hc ht => step_eq_exec ht hc hf

/-- Settles O21, by the answer and, where it is ok, the kind. -/
theorem completeStepAnswersHost : Obligations.CompleteStepAnswersHost := by
  intro s k r ts hf ht
  rw [step_of_answer ht hf]
  cases hok : r.ok with
  | false => simp [hok]
  | true => cases k <;> simp [hok]

/-- Settles O22: both answers end the command, with the same response. -/
theorem meaninglessBytesAreIgnored : Obligations.MeaninglessBytesAreIgnored := by
  intro s k ok r0 r1 r0' r1' ts hf h
  refine ⟨{ s with fsm := .idle, turns := ts }, responseTo k ⟨ok, r0, r1⟩, step_of_answer rfl hf, ?_⟩
  rw [responseTo_ignores_bytes h r0 r1 r0' r1']
  exact step_of_answer rfl hf

/-- Settles O26. -/
theorem unclaimedResponseIsDiscarded : Obligations.UnclaimedResponseIsDiscarded :=
  ⟨fun _ _ _ hf ht => step_of_quietMove (.unclaimed ht hf), fun _ _ _ ht => step_of_quietMove (.late ht)⟩

/-- Settles O28. -/
theorem resetState : Obligations.ResetState :=
  ⟨rfl, rfl, rfl, rfl, rfl⟩

theorem portsAgree_resetAt (a : BusAddr) : PortsAgree (State.resetAt a) := rfl

/-- Settles O36. -/
theorem portsAgreeAtReset : Obligations.PortsAgreeAtReset :=
  ⟨portsAgree_resetAt Config.devAddr, portsAgree_resetAt⟩

end Sys2Proof.Machine
end

section
/-! PROOFS. The obligations about the remote chip's output register: what one command and its answer fix of it,
and what a script does. -/

namespace Sys2Proof.Machine

/-- The two bytes of a frame: the low byte of the pin vector first (R70). -/
theorem enc_eq (R : Pins) : enc R = (R.setWidth 8, (R >>> 8).setWidth 8) := by
  have hmask (V : Pins) : (V &&& 0xFF).setWidth 8 = V.setWidth 8 := by
    rw [BitVec.setWidth_and]
    exact BitVec.and_allOnes
  rw [enc, hmask, hmask]

/-- `DEC` undoes `ENC`: byte 0 holds the pins below 8 and byte 1 the others (R70 to R72). -/
@[simp] theorem dec_enc (R : Pins) : dec (enc R).1 (enc R).2 = R := by
  rw [enc_eq, dec]
  refine BitVec.eq_of_getLsbD_eq fun i hi => ?_
  by_cases hlow : i < 8
  · simp [hi, hlow]
  · have hshift : 8 + (i - 8) = i := by omega
    have hbelow : i - 8 < 8 := by omega
    simp [hi, hlow, hshift, hbelow]

/-- One command and its answer: a successful WRITE fixes the register to the new shadow, anything else leaves it open,
whatever was known before (R36, R38, R125). -/
theorem chipOutput_exchange (es : List PortEvent) (a : BusAddr) (v : Pins) (p : CmdWord × BusResponse) :
    chipOutput (es ++ exchange a v p) =
      if isWriteWord p.1 && p.2.ok then some (shadowAfter (decode p.1) v) else none := by
  cases hd : decode p.1 with
  | read => simp [chipOutput, exchange, chipStep, requestOf, isWriteWord, hd]
  | write b f n =>
    cases hok : p.2.ok <;> simp [chipOutput, exchange, chipStep, requestOf, isWriteWord, hd, hok]

/-! ### Scripts in two parts -/

@[simp] theorem shadowAfterScript_append (v : Pins) (c d : Script) :
    shadowAfterScript v (c ++ d) = shadowAfterScript (shadowAfterScript v c) d := by
  induction c generalizing v with
  | nil => rfl
  | cons p c ih => exact ih _

@[simp] theorem exchanges_append (a : BusAddr) (v : Pins) (c d : Script) :
    exchanges a v (c ++ d) = exchanges a v c ++ exchanges a (shadowAfterScript v c) d := by
  induction c generalizing v with
  | nil => rfl
  | cons p c ih => simp [exchanges, shadowAfterScript, ih]

/-- Settles O35: the WRITE ends a script, whose messages end in the WRITE's exchange. -/
theorem successfulWriteResynchronises : Obligations.SuccessfulWriteResynchronises := by
  intro c s w b f n r hf hd
  have hshadow : shadowAfterScript s.shadow (c ++ [(w, r)]) = applyRun (shadowAfterScript s.shadow c) b f n := by
    simp [shadowAfterScript, shadowAfter, hd]
  have hports : s.ports ++ exchanges s.devAddr s.shadow (c ++ [(w, r)]) =
      (s.ports ++ exchanges s.devAddr s.shadow c) ++ exchange s.devAddr (shadowAfterScript s.shadow c) (w, r) := by
    simp [exchanges]
  have hrun := scriptRunsInOrder (c ++ [(w, r)]) s hf
  rw [List.length_append, hshadow, hports] at hrun
  refine ⟨_, hrun, hf, rfl, (chipOutput_exchange _ _ _ _).trans ?_⟩
  simp [isWriteWord, shadowAfter, hd]

end Sys2Proof.Machine
end

section
/-! PROOFS. The obligations about command words, the assembler and the responses. A word with `CMD[13] = 1` is
`1#1 ++ b ++ f ++ c`: it decodes to the WRITE of its fields and is the word of that WRITE. -/

namespace Sys2Proof

/-! ### The decoder and the encoder, field by field -/

theorem decode_of_opField {w : CmdWord} (h : opField w = true) :
    decode w = .write (stateField w) (firstPinField w) (pinCountField w) :=
  if_pos h

theorem decode_of_not_opField {w : CmdWord} (h : opField w = false) : decode w = .read :=
  if_neg (Bool.eq_false_iff.mp h)

theorem wf_write_iff {b : Bool} {f c : Nat} : (Instr.write b f c).wf = true ↔ f ≤ 15 ∧ c ≤ 255 := by
  simp [Instr.wf, pinIndexFits, pinCountFits]

section
variable (op b : BitVec 1) (f : BitVec 4) (c : BitVec 8)

theorem opField_append : opField (op ++ b ++ f ++ c) = (op == 1#1) := by
  refine (BitVec.getLsbD_eq_extractLsb' _ 13).trans (congrArg (· == 1#1) ?_)
  rw [BitVec.extractLsb'_append_eq_of_le (by decide), BitVec.extractLsb'_append_eq_of_le (by decide)]
  exact BitVec.extractLsb'_append_eq_left

theorem stateField_append : stateField (op ++ b ++ f ++ c) = (b == 1#1) := by
  refine (BitVec.getLsbD_eq_extractLsb' _ 12).trans (congrArg (· == 1#1) ?_)
  rw [BitVec.extractLsb'_append_eq_of_le (by decide), BitVec.extractLsb'_append_eq_of_le (by decide)]
  exact BitVec.extractLsb'_append_eq_right

theorem firstPinField_append : firstPinField (op ++ b ++ f ++ c) = f.toNat := by
  refine congrArg BitVec.toNat ?_
  rw [BitVec.extractLsb'_append_eq_of_le (by decide)]
  exact BitVec.extractLsb'_append_eq_right

theorem pinCountField_append : pinCountField (op ++ b ++ f ++ c) = c.toNat :=
  congrArg BitVec.toNat BitVec.extractLsb'_append_eq_right

/-- The decoder takes the operands of WRITE from the fields verbatim (R51, R52). -/
theorem decode_append : decode (1#1 ++ b ++ f ++ c) = .write (b == 1#1) f.toNat c.toNat := by
  rw [decode_of_opField (opField_append 1#1 b f c), stateField_append, firstPinField_append, pinCountField_append]

theorem toNat_beq_one : (b == 1#1).toNat = b.toNat := by
  revert b; decide

/-- The encoder puts field values back verbatim: the shifted terms of R61 fill 14 bits exactly, so nothing is cut off. -/
theorem encode_write_eq_append :
    encode (.write (b == 1#1) f.toNat c.toNat) = 1#1 ++ b ++ f ++ c := by
  have hword : 0x2000 ||| ((b == 1#1).toNat <<< 12) ||| (f.toNat <<< 8) ||| c.toNat = (1#1 ++ b ++ f ++ c).toNat := by
    simp only [BitVec.toNat_append, Nat.shiftLeft_or_distrib, ← Nat.shiftLeft_add, toNat_beq_one]
    rfl
  rw [encode, hword, BitVec.ofNat_toNat]
  exact BitVec.setWidth_eq _

theorem wf_write_of_fields : (Instr.write (b == 1#1) f.toNat c.toNat).wf = true :=
  wf_write_iff.mpr ⟨Nat.le_of_lt_succ f.isLt, Nat.le_of_lt_succ c.isLt⟩

end

/-- The operands of a well-formed WRITE are the values of fields (R53, R54). -/
theorem exists_fields_of_wf {b : Bool} {f c : Nat} (h : (Instr.write b f c).wf = true) :
    ∃ (b' : BitVec 1) (f' : BitVec 4) (c' : BitVec 8), Instr.write b f c = .write (b' == 1#1) f'.toNat c'.toNat := by
  obtain ⟨hf, hc⟩ := wf_write_iff.mp h
  have hf' : (BitVec.ofNat 4 f).toNat = f := Nat.mod_eq_of_lt (Nat.lt_succ_of_le hf)
  have hc' : (BitVec.ofNat 8 c).toNat = c := Nat.mod_eq_of_lt (Nat.lt_succ_of_le hc)
  refine ⟨BitVec.ofBool b, BitVec.ofNat 4 f, BitVec.ofNat 8 c, ?_⟩
  rw [hf', hc']
  cases b <;> rfl

/-- A word with `CMD[13] = 1` is that bit and the three fields in a row (R50). -/
theorem exists_fields_of_opField {w : CmdWord} (h : opField w = true) :
    ∃ (b : BitVec 1) (f : BitVec 4) (c : BitVec 8), w = 1#1 ++ b ++ f ++ c := by
  have hop : w.extractLsb' 13 1 = 1#1 := by
    rwa [opField, BitVec.getLsbD_eq_extractLsb', beq_iff_eq] at h
  refine ⟨w.extractLsb' 12 1, w.extractLsb' 8 4, w.extractLsb' 0 8, ?_⟩
  rw [← hop, BitVec.extractLsb'_append_extractLsb'_eq_extractLsb' (by decide),
    BitVec.extractLsb'_append_extractLsb'_eq_extractLsb' (by decide),
    BitVec.extractLsb'_append_extractLsb'_eq_extractLsb' (by decide)]
  exact BitVec.extractLsb'_eq_self.symm

/-- Settles O1: a well-formed WRITE is made of fields, which the encoder puts in a row and the decoder takes from it. -/
theorem decodeAfterEncode : Obligations.DecodeAfterEncode := by
  intro i h
  cases i with
  | read => rfl
  | write b f c =>
    obtain ⟨b', f', c', hfields⟩ := exists_fields_of_wf h
    rw [hfields, encode_write_eq_append, decode_append]

/-- Settles O2, by `CMD[13]`: a word of WRITE is its fields in a row, and any other is READ. -/
theorem encodeAfterDecode : Obligations.EncodeAfterDecode := by
  intro w
  change _ ∧ _ = if opField w then w else 0x0000
  cases h : opField w with
  | false =>
    rw [decode_of_not_opField h]
    exact ⟨rfl, rfl⟩
  | true =>
    obtain ⟨b, f, c, rfl⟩ := exists_fields_of_opField h
    rw [decode_append]
    exact ⟨wf_write_of_fields b f c, encode_write_eq_append b f c⟩

/-- Settles O3. -/
theorem decodeTakesFieldsVerbatim : Obligations.DecodeTakesFieldsVerbatim := by
  refine ⟨decode_append, fun x => decode_of_not_opField ?_, rfl⟩
  exact (BitVec.getLsbD_eq_extractLsb' _ 13).trans (congrArg (· == 1#1) BitVec.extractLsb'_append_eq_left)

/-- Settles O5, by whether the number has at most 14 bits. -/
theorem commandWordsHaveFourteenBits : Obligations.CommandWordsHaveFourteenBits := by
  intro n w
  by_cases h : w < 2 ^ 14
  · simp only [decodeTableWord, decodeWord, if_pos h]
  · simp only [decodeTableWord, decodeWord, if_neg h]

end Sys2Proof

namespace Sys2Proof.Machine

/-! ### Steps and responses -/

/-- Settles O25: one of the effects of a step is always due, and `exec` answers in Idle and in Transacting. -/
theorem stepAlwaysAnswersNext : Obligations.StepAlwaysAnswersNext := by
  refine ⟨fun s => ⟨_, step_eq_next_nextState s⟩, fun i s => ?_⟩
  cases hf : s.fsm with
  | idle => exact ⟨_, exec_of_idle i hf⟩
  | transacting k => exact ⟨_, exec_of_transacting i hf⟩

/-- Settles O20: every such word decodes to READ, which is accepted. -/
theorem readWordsBehaveAlike : Obligations.ReadWordsBehaveAlike := by
  intro w s ws ts hw hf
  have haccepted := step_eq_exec (s := { s with commands := w :: ws, turns := .host :: ts }) rfl rfl hf
  rw [haccepted, decode_of_not_opField hw, exec_of_idle]
  · simp [shadowAfter, kindOf, requestOf]
  · exact hf

theorem length_pinReading (V : Pins) : (pinReading V).length = 16 := by
  simp [pinReading]

theorem getElem?_pinReading (V : Pins) {i : Nat} (h : i ≤ 15) : (pinReading V)[i]? = some (V.getLsbD i) := by
  simp [pinReading, Nat.lt_succ_of_le h]

/-- Settles O13: the status by the response; the response by the answer and, where it is ok, the kind. -/
theorem responseCarriesStatusAndReading : Obligations.ResponseCarriesStatusAndReading := by
  refine ⟨fun x => ?_, fun k r => ?_, fun V => ⟨length_pinReading V, fun i => getElem?_pinReading V⟩⟩
  · cases x <;> rfl
  · cases hok : r.ok with
    | false => simp [hok, statusBit, readingOf]
    | true => cases k <;> simp [hok, statusBit, readingOf]

/-! ### The assembler -/

/-- A line is refused exactly where an operand of its WRITE does not fit its field (R61). -/
theorem assembleLine_of_expandLine {l : AsmLine} {b : Bool} {f c : Nat} (h : expandLine l = .write b f c) :
    assembleLine l = if f ≤ 15 ∧ c ≤ 255 then .ok (encode (.write b f c)) else .error .operandOutOfRange := by
  simp only [assembleLine, h, wf_write_iff]

/-- Settles O48: the WRITE line by the field widths, the texts by running the assembler on them. -/
theorem assemblerWords : Obligations.AssemblerWords :=
  ⟨fun _ _ _ => assembleLine_of_expandLine rfl, rfl, rfl, rfl, rfl, rfl, rfl⟩

/-- Lines that stand for the same command assemble alike. -/
theorem assembleLine_congr {l m : AsmLine} (h : expandLine l = expandLine m) : assembleLine l = assembleLine m := by
  rw [assembleLine, h, assembleLine]

/-- Settles O49: each pseudo-instruction stands for its WRITE, and the operands of the last three are fixed. -/
theorem pseudoInstructionsExpand : Obligations.PseudoInstructionsExpand :=
  ⟨fun _ _ => ⟨assembleLine_congr rfl, assembleLine_congr rfl⟩,
    assembleLine_congr rfl, assembleLine_congr rfl, assembleLine_congr rfl,
    rfl, rfl, rfl⟩

end Sys2Proof.Machine
end

section
/-! PROOFS. The obligations about the frame: `DEC` is byte 1 put above byte 0, so the library's facts about appended bit
vectors say which pin each byte holds. -/

namespace Sys2Proof.Machine

/-- Byte 1 stands above byte 0 (R71). -/
theorem dec_eq_append (b0 b1 : Byte) : dec b0 b1 = b1 ++ b0 := by
  rw [BitVec.append_def, BitVec.shiftLeftZeroExtend_eq, BitVec.setWidth'_eq]
  rfl

/-- `ENC` takes apart what `DEC` puts together (R72). -/
@[simp] theorem enc_dec (b0 b1 : Byte) : enc (dec b0 b1) = (b0, b1) := by
  rw [enc_eq, dec_eq_append, BitVec.setWidth_append_eq_right, BitVec.setWidth_ushiftRight_eq_extractLsb,
    BitVec.extractLsb'_append_eq_left]

/-- `ENC` loses nothing, since `DEC` undoes it (R73). -/
theorem enc_injective : Function.Injective enc := by
  intro R R' h
  rw [← dec_enc R, h, dec_enc]

/-- Settles O11. -/
theorem encDecMutualInverses : Obligations.EncDecMutualInverses :=
  ⟨dec_enc, enc_dec, fun _ _ h => enc_injective h⟩

theorem dec_getLsbD_low (b0 b1 : Byte) {i : Nat} (h : i < 8) : (dec b0 b1).getLsbD i = b0.getLsbD i := by
  rw [dec_eq_append, BitVec.getLsbD_append, if_pos h]

/-- Beyond bit 7 of byte 1 both sides are 0. -/
theorem dec_getLsbD_high (b0 b1 : Byte) (i : Nat) : (dec b0 b1).getLsbD (i + 8) = b1.getLsbD i := by
  rw [dec_eq_append, BitVec.getLsbD_append, if_neg (Nat.not_lt.mpr (Nat.le_add_left 8 i)), Nat.add_sub_cancel]

/-- The pin of a frame is the bit of its decoded value (R75): pins 0 to 7 lie in byte 0, pins 8 to 15 in byte 1. -/
theorem dec_getLsbD_eq_framePin (f : Frame) {p : Nat} (h : p ≤ 15) : (dec f.1 f.2).getLsbD p = framePin f p := by
  by_cases hlow : p < 8
  · rw [dec_getLsbD_low _ _ hlow, framePin, if_pos (Nat.div_eq_of_lt hlow), Nat.mod_eq_of_lt hlow]
  · obtain ⟨i, rfl⟩ := Nat.exists_eq_add_of_le' (Nat.not_lt.mp hlow)
    have hi : i < 8 := by omega
    have hbyte : (i + 8) / 8 ≠ 0 := by omega
    rw [dec_getLsbD_high, framePin, if_neg hbyte, Nat.add_mod_right, Nat.mod_eq_of_lt hi]

/-- Settles O12: `DEC` takes each pin from its bit, and so `ENC` puts it there, since `DEC` undoes `ENC`. -/
theorem frameCarriesPins : Obligations.FrameCarriesPins := by
  have hdec (b0 b1 : Byte) (i : Nat) (h : i ≤ 7) :
      (dec b0 b1).getLsbD i = b0.getLsbD i ∧ (dec b0 b1).getLsbD (i + 8) = b1.getLsbD i :=
    ⟨dec_getLsbD_low b0 b1 (Nat.lt_succ_of_le h), dec_getLsbD_high b0 b1 i⟩
  refine ⟨fun V p h => ?_, fun f _ => dec_getLsbD_eq_framePin f, fun V i h => ?_, hdec⟩
  · rw [← dec_getLsbD_eq_framePin _ h, dec_enc]
  · obtain ⟨hlow, hhigh⟩ := hdec (enc V).1 (enc V).2 i h
    rw [dec_enc] at hlow hhigh
    exact ⟨hlow.symm, hhigh.symm⟩

end Sys2Proof.Machine
end

section
/-! PROOFS. The obligations about PinWriter. A run is known by its bits: `getLsbD_runMask` says which pins `RUNMASK` selects and
`getLsbD_applyRun` what `APPLY` does to each pin, and the laws of both are read off bit by bit. -/

namespace Sys2Proof.Machine

/-! ### The pins that RUNMASK selects -/

/-- The bit of one index, as the mask and the source's loop make it. -/
theorem getLsbD_ofNat_one_shiftLeft (i j : Nat) : (BitVec.ofNat 16 (1 <<< i)).getLsbD j = decide (j < 16 ∧ i = j) := by
  rw [BitVec.getLsbD_ofNat, Nat.one_shiftLeft, Nat.testBit_two_pow, Bool.decide_and]

theorem getLsbD_runMaskBelow (first count n j : Nat) :
    (runMaskBelow first count n).getLsbD j = decide (j < 16 ∧ j < n ∧ first ≤ j ∧ j < first + count) := by
  induction n with
  | zero => simp [runMaskBelow]
  | succ n ih =>
    rw [runMaskBelow]
    split
    · grind [getLsbD_ofNat_one_shiftLeft]
    · grind

/-- The pins of a run (R80). -/
theorem getLsbD_runMask (first count j : Nat) :
    (runMask first count).getLsbD j = decide (j < 16 ∧ first ≤ j ∧ j < first + count) := by
  rw [runMask, getLsbD_runMaskBelow]
  grind

/-- The pins that the source's loop has set after `n` turns (R80). -/
theorem getLsbD_runMaskLoop (first n j : Nat) :
    (runMaskLoop first n).getLsbD j = decide (j < 16 ∧ first ≤ j ∧ j < first + n) := by
  induction n with
  | zero => simp [runMaskLoop]
  | succ n ih =>
    rw [runMaskLoop]
    split
    · grind [getLsbD_ofNat_one_shiftLeft]
    · grind

theorem runMask_eq_runMaskLoop (first count : Nat) : runMask first count = runMaskLoop first count :=
  BitVec.eq_of_getLsbD_eq fun j _ => by rw [getLsbD_runMask, getLsbD_runMaskLoop]

/-- Settles O6: the mask and the loop have the same bits. -/
theorem runMaskMembership : Obligations.RunMaskMembership := by
  refine ⟨fun first count j hj => ?_, runMask_eq_runMaskLoop, rfl⟩
  rw [getLsbD_runMask, decide_eq_decide]
  exact and_iff_right (Nat.lt_succ_of_le hj)

/-! ### The closed form of RUNMASK -/

theorem getLsbD_ofNat_block (first n j : Nat) :
    (BitVec.ofNat 16 (((1 <<< n) - 1) <<< first)).getLsbD j = decide (j < 16 ∧ first ≤ j ∧ j < first + n) := by
  rw [BitVec.getLsbD_ofNat, Nat.one_shiftLeft, Nat.testBit_shiftLeft, Nat.testBit_two_pow_sub_one]
  grind

theorem runMask_eq_block (first count : Nat) :
    runMask first count = BitVec.ofNat 16 (((1 <<< count) - 1) <<< first) :=
  BitVec.eq_of_getLsbD_eq fun j _ => by rw [getLsbD_runMask, getLsbD_ofNat_block]

theorem runMask_eq_zero_of_last_lt {first : Nat} (count : Nat) (h : 15 < first) : runMask first count = 0x0000 :=
  BitVec.eq_of_getLsbD_eq fun j hj => by
    have houtside : ¬ first ≤ j := by omega
    simp [getLsbD_runMask, houtside]

/-- Only the indices up to 15 count: what lies above them is cut off (R83 (a)). -/
theorem runMask_eq_runMask_min (first count : Nat) : runMask first count = runMask first (min count (16 - first)) :=
  BitVec.eq_of_getLsbD_eq fun j hj => by
    have hcut : j < first + count ↔ j < first + min count (16 - first) := by omega
    simp only [getLsbD_runMask, hcut]

/-- The indices below `n` that lie in the block of `count` from `first`. -/
theorem countP_range_block (first count n : Nat) :
    (List.range n).countP (fun j => decide (first ≤ j ∧ j < first + count)) = min count (n - first) := by
  induction n with
  | zero => simp
  | succ n ih =>
    rw [List.range_succ, List.countP_append, ih, List.countP_singleton]
    grind

/-- The run has as many pins as fit from `first` on (R83 (b)). -/
theorem countP_runMask (first count : Nat) :
    (List.range 16).countP (runMask first count).getLsbD = min count (16 - first) := by
  rw [← countP_range_block]
  refine List.countP_congr fun j hj => ?_
  rw [getLsbD_runMask, decide_eq_true_iff, decide_eq_true_iff]
  exact and_iff_right (List.mem_range.mp hj)

/-- Settles O7: the count may be cut to what fits, and the mask is the block of that many ones. -/
theorem runMaskClosedForm : Obligations.RunMaskClosedForm := by
  intro first count
  refine ⟨?_, fun _ => ⟨runMask_eq_runMask_min first count, fun h => ?_, countP_runMask first count, fun j hj => ?_⟩⟩
  · split
    · next h => exact runMask_eq_zero_of_last_lt count h
    · rw [runMask_eq_runMask_min, runMask_eq_block]
  · rw [runMask_eq_runMask_min, Nat.min_eq_right h]
  · rw [runMask_eq_runMask_min, getLsbD_runMask, decide_eq_true_iff]
    exact and_iff_right (Nat.lt_succ_of_le hj)

/-! ### APPLY, pin by pin -/

/-- An empty run changes no pin (R86, R89). -/
theorem applyRun_of_runMask_eq_zero {f c : Nat} (R : Pins) (b : Bool) (h : runMask f c = 0x0000) :
    applyRun R b f c = R :=
  BitVec.eq_of_getLsbD_eq fun _ _ => applyRun_getLsbD_outside R b (h ▸ BitVec.getLsbD_zero)

/-- Settles O8: no pin up to 15 lies in the run. -/
theorem runAboveLastPinIsInert : Obligations.RunAboveLastPinIsInert := by
  intro first count R b h
  have hmask := runMask_eq_zero_of_last_lt count h
  exact ⟨hmask, applyRun_of_runMask_eq_zero R b hmask⟩

/-- `APPLY` gives every pin of its run the level `b` (R82, R88 (a)). -/
theorem applyRun_getLsbD_inside (R : Pins) (b : Bool) {f c j : Nat} (h : (runMask f c).getLsbD j = true) :
    (applyRun R b f c).getLsbD j = b := by
  cases b <;> simp [applyRun, h]

theorem getLsbD_applyRun (R : Pins) (b : Bool) (f c j : Nat) :
    (applyRun R b f c).getLsbD j = if (runMask f c).getLsbD j then b else R.getLsbD j := by
  split
  · next h => exact applyRun_getLsbD_inside R b h
  · next h => exact applyRun_getLsbD_outside R b (Bool.eq_false_iff.mpr h)

/-- Settles O9. -/
theorem applyRunBitwise : Obligations.ApplyRunBitwise :=
  ⟨fun _ _ _ => ⟨rfl, rfl⟩, fun R b f c j _ => getLsbD_applyRun R b f c j, rfl⟩

/-- The second `APPLY` of one run decides (R87, R88 (c)). -/
theorem applyRun_applyRun_same_run (R : Pins) (b b' : Bool) (f c : Nat) :
    applyRun (applyRun R b f c) b' f c = applyRun R b' f c :=
  BitVec.eq_of_getLsbD_eq fun j _ => by
    simp only [getLsbD_applyRun]
    split <;> rfl

/-- Two masks overlap exactly if they share a pin. -/
theorem and_ne_zero_iff_exists_getLsbD (M N : Pins) :
    M &&& N ≠ 0x0000 ↔ ∃ j, M.getLsbD j = true ∧ N.getLsbD j = true := by
  rw [Ne, BitVec.eq_of_getLsbD_eq_iff]
  grind [BitVec.lt_of_getLsbD]

/-- Disjoint runs commute (R88 (d)). -/
theorem applyRun_comm_of_disjoint (R : Pins) (b b' : Bool) {f c f' c' : Nat} (h : runMask f c &&& runMask f' c' = 0x0000) :
    applyRun (applyRun R b f c) b' f' c' = applyRun (applyRun R b' f' c') b f c := by
  refine BitVec.eq_of_getLsbD_eq fun j _ => ?_
  have hdisjoint : ¬((runMask f c).getLsbD j = true ∧ (runMask f' c').getLsbD j = true) := fun hj =>
    (and_ne_zero_iff_exists_getLsbD _ _).mpr ⟨j, hj⟩ h
  simp only [getLsbD_applyRun]
  grind

/-- On a shared pin each order leaves the level of its own later write (R88 (d)). -/
theorem applyRun_not_comm_of_overlap (R : Pins) (b : Bool) {f c f' c' : Nat} (h : runMask f c &&& runMask f' c' ≠ 0x0000) :
    applyRun (applyRun R b f c) (!b) f' c' ≠ applyRun (applyRun R (!b) f' c') b f c := by
  obtain ⟨j, hfirst, hsecond⟩ := (and_ne_zero_iff_exists_getLsbD _ _).mp h
  intro heq
  have hpin := congrArg (BitVec.getLsbD · j) heq
  simp only [applyRun_getLsbD_inside _ _ hfirst, applyRun_getLsbD_inside _ _ hsecond] at hpin
  exact Bool.not_ne_self b hpin

/-- Settles O10: (a) the whole run, (b) the other pins, (c) one run twice, (d) two runs, (e) the ACCEPT step. -/
theorem applyRunLaws : Obligations.ApplyRunLaws :=
  ⟨fun _ => ⟨BitVec.and_zero, BitVec.or_allOnes⟩,
    fun R b _ _ _ => applyRun_getLsbD_inside R b,
    fun R b _ _ _ => applyRun_getLsbD_outside R b,
    fun R => applyRun_applyRun_same_run R true false,
    ⟨0x0001, 0, 1, by decide⟩,
    fun R b b' _ _ _ _ => applyRun_comm_of_disjoint R b b',
    fun R b _ _ _ _ => applyRun_not_comm_of_overlap R b,
    fun _ _ b' _ _ _ _ _ => applyRun_getLsbD_inside _ b',
    fun b f c _ hs => ⟨_, exec_of_idle (.write b f c) hs, rfl⟩⟩

/-! ### WRITE -/

/-- Settles O16: the loop of `RUNMASK` runs zero times, so the shadow sent is the old one. -/
theorem zeroCountWriteStillSends : Obligations.ZeroCountWriteStillSends := by
  intro b f s hs
  have hempty : runMask f 0 = 0x0000 := runMask_eq_runMaskLoop f 0
  have hsame : shadowAfter (.write b f 0) s.shadow = s.shadow := applyRun_of_runMask_eq_zero s.shadow b hempty
  rw [exec_of_idle _ hs, hsame]
  rfl

theorem responseTo_send (r : BusResponse) : responseTo .send r = if r.ok then .ok else .fail := by
  cases hok : r.ok <;> simp [hok]

/-- The messages of a WRITE: the new value is sent, and the response tells of the Send alone (R84, R85). -/
theorem exchange_of_write {w : CmdWord} {b : Bool} {f c : Nat} (a : BusAddr) (v : Pins) (r : BusResponse)
    (h : decode w = .write b f c) :
    exchange a v (w, r) =
      [ .command w
      , .busRequest (.send a 2 (enc (applyRun v b f c)).1 (enc (applyRun v b f c)).2)
      , .busResponse r
      , .response (if r.ok then .ok else .fail) ] := by
  simp [exchange, h, shadowAfter, requestOf, kindOf, responseTo_send]

/-- Settles O29: the script of this one command. -/
theorem writeReportsItsSend : Obligations.WriteReportsItsSend := by
  intro s w b f c r hs hw
  refine (scriptRunsInOrder [(w, r)] s hs).trans ?_
  simp [shadowAfterScript, shadowAfter, exchanges, exchange_of_write _ _ _ hw, hw]

/-- Settles O32: the script of the two commands; by idempotence both send the same frame. -/
theorem repeatedWriteSendsSameFrame : Obligations.RepeatedWriteSendsSameFrame := by
  refine ⟨fun R b => applyRun_applyRun_same_run R b b, ?_⟩
  rintro s w b f c r r' _ _ hs hw rfl rfl
  refine (scriptRunsInOrder [(w, r), (w, r')] s hs).trans ?_
  simp [shadowAfterScript, shadowAfter, exchanges, exchange_of_write _ _ _ hw, hw, applyRun_applyRun_same_run]

end Sys2Proof.Machine
end

section
/-! PROOFS. The obligations about READ: what its exchange holds, that `SHADOW` has no part in it, and that a script without
its READs makes the same shadow and sends the same frames. -/

namespace Sys2Proof.Machine

theorem responseTo_recv (r : BusResponse) : responseTo .recv r = if r.ok then .reading (dec r.r0 r.r1) else .fail := by
  cases hok : r.ok <;> simp [hok]

/-- A word that is no WRITE is READ: the block has two commands (R50, R51). -/
theorem decode_of_not_isWriteWord {w : CmdWord} (h : isWriteWord w = false) : decode w = .read := by
  cases hd : decode w with
  | write b f c => simp [isWriteWord, hd] at h
  | read => rfl

@[simp] theorem shadowAfter_read (v : Pins) : shadowAfter .read v = v := rfl

/-- The messages of a READ: the shadow `v` is in none of them (R90, R91, R94). -/
theorem exchange_of_read {w : CmdWord} (a : BusAddr) (v : Pins) (r : BusResponse) (h : decode w = .read) :
    exchange a v (w, r) =
      [ .command w
      , .busRequest (.recv a 2)
      , .busResponse r
      , .response (if r.ok then .reading (dec r.r0 r.r1) else .fail) ] := by
  simp [exchange, h, requestOf, kindOf, responseTo_recv]

theorem framesSent_exchange_of_read {w : CmdWord} (a : BusAddr) (v : Pins) (r : BusResponse) (h : decode w = .read) :
    framesSent (exchange a v (w, r)) = [] := by
  rw [exchange_of_read a v r h]
  rfl

/-- Settles O30: the script of this one command. -/
theorem readDeliversItsBytes : Obligations.ReadDeliversItsBytes := by
  intro s w r hs hw
  refine (scriptRunsInOrder [(w, r)] s hs).trans ?_
  simp [shadowAfterScript, exchanges, exchange_of_read _ _ _ hw, hw]

/-- Settles O31: both runs are one exchange, and that of a READ is the same from every shadow. -/
theorem readIndependentOfShadow : Obligations.ReadIndependentOfShadow := by
  intro s v w ws r ts hs hc hw ht
  refine ⟨_, runSteps_exchange (p := (w, r)) hs hc ht, ?_⟩
  refine (runSteps_exchange (s := { s with shadow := v }) (p := (w, r)) hs hc ht).trans ?_
  simp [exchange_of_read _ _ _ hw, hw]

/-! ### A script without its READs -/

/-- The WRITEs of a script, in order, each with its answer. -/
def writesOf (c : Script) : Script :=
  c.filter fun p => isWriteWord p.1

theorem writesOf_cons_of_write {p : CmdWord × BusResponse} (c : Script) (h : isWriteWord p.1 = true) :
    writesOf (p :: c) = p :: writesOf c :=
  List.filter_cons_of_pos h

theorem writesOf_cons_of_read {p : CmdWord × BusResponse} (c : Script) (h : isWriteWord p.1 = false) :
    writesOf (p :: c) = writesOf c :=
  List.filter_cons_of_neg (by simp [h])

theorem shadowAfterScript_writesOf (v : Pins) (c : Script) : shadowAfterScript v (writesOf c) = shadowAfterScript v c := by
  induction c generalizing v with
  | nil => rfl
  | cons p c ih =>
    cases hp : isWriteWord p.1 with
    | true => rw [writesOf_cons_of_write c hp]; exact ih _
    | false =>
      rw [writesOf_cons_of_read c hp, ih, shadowAfterScript, decode_of_not_isWriteWord hp, shadowAfter_read]

theorem framesSent_exchanges_writesOf (a : BusAddr) (v : Pins) (c : Script) :
    framesSent (exchanges a v (writesOf c)) = framesSent (exchanges a v c) := by
  induction c generalizing v with
  | nil => rfl
  | cons p c ih =>
    cases hp : isWriteWord p.1 with
    | true => simp [writesOf_cons_of_write c hp, exchanges, ih]
    | false =>
      have hread := decode_of_not_isWriteWord hp
      simp [writesOf_cons_of_read c hp, exchanges, framesSent_exchange_of_read a v p.2 hread, hread, ih]

/-- Settles O34: a READ neither changes the shadow nor sends a frame, so by induction on the script none is missed. -/
theorem readsLeaveWritesAlone : Obligations.ReadsLeaveWritesAlone := by
  intro c s hs
  refine ⟨_, _, scriptRunsInOrder c s hs, scriptRunsInOrder (writesOf c) s hs, ?_, ?_⟩
  · exact (shadowAfterScript_writesOf s.shadow c).symm
  · simp [framesSent_exchanges_writesOf]

end Sys2Proof.Machine
end

section
/-! PROOFS. The obligations about BusTransactionFailure and the hang: which effect of a step delivers FAIL, and why a block
whose bus does not answer takes nothing but quiet moves. -/

namespace Sys2Proof.Machine

theorem responseTo_eq_fail_iff {k : BusKind} {r : BusResponse} : responseTo k r = .fail ↔ r.ok = false := by
  cases hok : r.ok with
  | false => simp [hok]
  | true => cases k <;> simp [hok]

/-- Settles O24: of the four effects of a step, only an answer adds a response, and it is FAIL exactly if `ok` is 0. -/
theorem onlyBusFailureIsReported : Obligations.OnlyBusFailureIsReported := by
  intro s t es h hp hfail
  cases step_next_iff.mp h with
  | quiet _ =>
    obtain rfl : es = [] := List.self_eq_append_right.mp hp
    simp at hfail
  | accepted _ _ _ =>
    obtain rfl := List.append_cancel_left hp
    simp at hfail
  | reset _ =>
    obtain rfl := List.append_cancel_left hp
    simp at hfail
  | @answered k r ts ht hf =>
    obtain rfl := List.append_cancel_left hp
    have hx : .fail = responseTo k r := by simpa using hfail
    exact ⟨k, r, ts, hf, ht, responseTo_eq_fail_iff.mp hx.symm⟩

/-- In a hang the move that comes next, if there is one, is quiet (R19, R112). -/
theorem quietMove_tail_of_hang {s : State} {k : BusKind} (hf : s.fsm = .transacting k) (h : onlyHolds s.turns = true) :
    QuietMove s s.turns.tail := by
  cases ht : s.turns with
  | nil => exact .noMove ht
  | cons x ts => exact quietMove_of_onlyHolds hf ht (ht ▸ h)

theorem onlyHolds_tail {ts : List Turn} (h : onlyHolds ts = true) : onlyHolds ts.tail = true := by
  cases ts with
  | nil => exact h
  | cons x ts => exact onlyHolds_of_cons h

/-- Settles O43, by induction on the number of steps: each takes one quiet move, and the moves left are still a hang's. -/
theorem hungBusStaysStuck : Obligations.HungBusStaysStuck := by
  intro n
  induction n with
  | zero => intro s k _ _; rfl
  | succ n ih =>
    intro s k hf h
    rw [runSteps_succ n (step_of_quietMove (quietMove_tail_of_hang hf h)), ← List.drop_tail]
    exact ih _ k hf (onlyHolds_tail h)

/-- Settles O23: the entry is the response FAIL in Idle, which is what the answer's own step delivers where `ok` is 0. -/
theorem failureEntry : Obligations.FailureEntry := by
  refine ⟨fun _ => respond_eq .fail, fun s k r ts hf ht hok => ?_⟩
  rw [step_of_answer ht hf, responseTo_of_failed k hok, raiseBusTransactionFailure_eq, respond_eq, List.append_assoc]
  rfl

end Sys2Proof.Machine
end

section
/-! PROOFS. The obligations about reset and the chip's output register after it: the first WRITE is one exchange from the
reset state, and a script without a successful WRITE is a row of exchanges each of which leaves the register open. -/

namespace Sys2Proof.Machine

/-- Settles O27: the reset is one of the effects of a step, whatever the state. -/
theorem resetTakesEffectAtOnce : Obligations.ResetTakesEffectAtOnce :=
  fun _ _ ht => step_of_stepEffect (.reset ht)

/-- A WRITE sends one frame, the code of the new shadow, whatever its answer (R84). -/
theorem framesSent_exchange_of_write {w : CmdWord} {b : Bool} {f c : Nat} (a : BusAddr) (v : Pins) (r : BusResponse)
    (h : decode w = .write b f c) :
    framesSent (exchange a v (w, r)) = [enc (applyRun v b f c)] := by
  rw [exchange_of_write a v r h]
  rfl

@[simp] theorem framesSent_reset : framesSent [.reset] = [] := rfl

/-- Settles O46: the reset adds its own message alone, and the WRITE's exchange then starts from the shadow 0x0000. -/
theorem firstWriteAfterResetStartsFromZero : Obligations.FirstWriteAfterResetStartsFromZero := by
  refine ⟨⟨rfl, rfl⟩, fun s ts ht => ?_, fun s w ws b f c r ts ht hc hw => ?_, by decide⟩
  · refine ⟨_, resetTakesEffectAtOnce s ts ht, rfl, by simp, chipOutput_reset _, ?_⟩
    rw [chipRegister_of_open (chipOutput_reset _), List.length_append, List.length_singleton]
  · have hreset := resetTakesEffectAtOnce s _ ht
    have hshadow : shadowAfter (decode w) 0x0000 = applyRun 0x0000 b f c := by rw [hw, shadowAfter]
    refine ⟨_, (runSteps_succ 2 hreset).trans (runSteps_exchange (p := (w, r)) rfl hc rfl), hshadow, ?_, ?_⟩
    · rw [framesSent_append, framesSent_append, framesSent_reset, List.append_nil, framesSent_exchange_of_write _ _ _ hw]
    · refine (chipOutput_exchange _ _ _ _).trans ?_
      simp [isWriteWord, hw]

/-- A script in which no WRITE succeeds leaves an open register open (R126, U12). -/
theorem chipOutput_exchanges_of_no_write_ok {c : Script} (hc : ∀ p ∈ c, isWriteWord p.1 = true → p.2.ok = false)
    {es : List PortEvent} (hes : chipOutput es = none) (a : BusAddr) (v : Pins) :
    chipOutput (es ++ exchanges a v c) = none := by
  induction c generalizing es v with
  | nil => rwa [exchanges, List.append_nil]
  | cons p c ih =>
    obtain ⟨hp, hrest⟩ := List.forall_mem_cons.mp hc
    have hopen : chipOutput (es ++ exchange a v p) = none := by
      rw [chipOutput_exchange]
      simpa using hp
    rw [exchanges, ← List.append_assoc]
    exact ih hrest hopen _

/-- Settles O47: the run adds the script's exchanges, which leave the register open. -/
theorem chipStaysOpenUntilSuccessfulWrite : Obligations.ChipStaysOpenUntilSuccessfulWrite := by
  intro c s hf hes hc
  have hopen := chipOutput_exchanges_of_no_write_ok hc hes s.devAddr s.shadow
  exact ⟨_, scriptRunsInOrder c s hf, hopen, chipRegister_of_open hopen⟩

end Sys2Proof.Machine
end

section
/-! PROOFS. The obligation about the words that the spec writes out. -/

namespace Sys2Proof

/-- Settles O4: the six words with `CMD[13] = 1` are read off their three fields, and the other three are READ. -/
theorem specWordsDecode : Obligations.SpecWordsDecode :=
  ⟨decode_append 0b1 0b0100 0b00000011,
    decode_append 0b1 0b1110 0b00000101,
    decode_append 0b0 0b0000 0b00010000,
    decode_append 0b0 0b1111 0b00000010,
    decode_append 0b1 0b1111 0b11111111,
    decode_append 0b0 0b0000 0b00000000,
    decode_of_not_opField rfl,
    decode_of_not_opField rfl,
    decode_of_not_opField rfl⟩

end Sys2Proof
end
